-- ==== Sys2Proof/Word.lean ====
section
/-! DEFINITION. The words of the block: the byte, the two-byte field, the colour. -/

namespace Sys2Proof

/-- A whole byte, the unit the external bit shifter delivers (R5). -/
abbrev Byte := BitVec 8

/-- A two-byte frame field, 0 .. 65535 (R40, R80). -/
abbrev Half := BitVec 16

/-- One cell of the frame buffer: three 8-bit channels (R15, R41). -/
structure Colour where
  r : Byte
  g : Byte
  b : Byte
deriving DecidableEq, Repr

/-- The idle (off, black) colour `IDLE` (00_scope.md section 7). -/
def Colour.idle : Colour := ⟨0, 0, 0⟩

end Sys2Proof
end

