-- ==== Sys2Proof/Config.lean ====
section
/-! DEFINITION. What one build of the block fixes (00_scope.md section 4), and the free value of the model. -/

namespace Sys2Proof

/-- `SYNC_MODE`: which of the two front ends a build has (R100). -/
inductive SyncMode where
  | edge
  | queued
deriving DecidableEq, Repr

/-- The build parameters of 00_scope.md section 4. They are plain data carried by the state and no step
changes them, so a statement about every state is a statement about every build (log 1). -/
structure Params where
  /-- `MAX_STRIPS` -/
  maxStrips : Nat
  /-- `MAX_LEDS` -/
  maxLeds   : Nat
  /-- `RX_MAX` -/
  rxMax     : Nat
  /-- `SYNC_MODE` -/
  syncMode  : SyncMode
  /-- `ZP_EXEMPT`, the opcodes left out of the zero-payload check (R131) -/
  zpExempt  : List Byte
  /-- `CNT_W` -/
  cntW      : Nat
  /-- `DUR_W` -/
  durW      : Nat
  /-- `RST_STRIPS` -/
  rstStrips : Byte
  /-- `RST_LEN` -/
  rstLen    : Half
  /-- `RST_BRIGHT` -/
  rstBright : Byte
deriving DecidableEq, Repr

/-- `NSLOTS = MAX_STRIPS × MAX_LEDS` (R3). -/
def Params.nslots (p : Params) : Nat := p.maxStrips * p.maxLeds

/-- The ranges R3 and 00_scope.md section 4 give the parameters. -/
abbrev Params.Valid (p : Params) : Prop :=
  (1 ≤ p.maxStrips ∧ p.maxStrips ≤ 255) ∧ (1 ≤ p.maxLeds ∧ p.maxLeds ≤ 65535) ∧ 1 ≤ p.rxMax ∧
  (1 ≤ p.rstStrips.toNat ∧ p.rstStrips.toNat ≤ p.maxStrips) ∧
  (1 ≤ p.rstLen.toNat ∧ p.rstLen.toNat ≤ p.maxLeds) ∧ 1 ≤ p.cntW ∧ 1 ≤ p.durW

/-- The parameter set P_EX of 00_scope.md section 4, which every test vector of 95_test_vectors.md uses.
DESIGN CHOICE (log 1): the build whose reset state is `State.reset`. -/
def Params.reference : Params where
  maxStrips := 2
  maxLeds   := 5
  rxMax     := 64
  syncMode  := .edge
  zpExempt  := []
  cntW      := 32
  durW      := 32
  rstStrips := 2
  rstLen    := 5
  rstBright := 255

/-- FREE VALUE (log 7): the measured duration of the `k`-th render handoff, any `DUR_W`-bit value, under no law
(R161, R28, U7). -/
opaque Config.renderDuration (durW k : Nat) : BitVec durW

end Sys2Proof
end

