-- ==== Sys2Proof/Syntax.lean ====
section
/-! DEFINITION. The syntax of a command: one constructor of `Instr` per row of spec/opcode_table.json.
A frame of any length whose first byte is a recognized opcode IS that command (R113, R132), so the operand types
hold the short frames as well (they end `MALFORMED`, R202), and every full form holds the bytes beyond the required
length as `tail`, which the command ignores (R82). Log 14. -/

namespace Sys2Proof

/-- The payload of SET_PIXEL (R72). -/
inductive PixelOperands where
  /-- fewer than five payload bytes, `n < 6` -/
  | short (payload : List Byte)
  | full (index : Half) (colour : Colour) (tail : List Byte)
deriving DecidableEq, Repr

/-- The payload of SET_BRIGHTNESS (R73). -/
inductive BrightnessOperands where
  /-- no payload byte, `n = 1` -/
  | short
  | full (brightness : Byte) (tail : List Byte)
deriving DecidableEq, Repr

/-- The payload of SET_RANGE (R76). -/
inductive RangeOperands where
  /-- fewer than three payload bytes, `n < 4` -/
  | short (payload : List Byte)
  /-- a whole header that announces more colours than `data` carries, `4 ≤ n < 4 + 3 × count` -/
  | starved (start : Half) (count : Byte) (data : List Byte)
  /-- a whole header and the `count` colours it announces; `count` is the number of colours -/
  | full (start : Half) (colours : List Colour) (tail : List Byte)
deriving DecidableEq, Repr

/-- The payload of RECONFIGURE (R79). -/
inductive ReconfigureOperands where
  /-- fewer than three payload bytes, `n < 4` -/
  | short (payload : List Byte)
  /-- `debug` is the optional fifth byte of the frame -/
  | full (strips : Byte) (len : Half) (debug : Option Byte) (tail : List Byte)
deriving DecidableEq, Repr

/-- The closed set of eight commands (R83). -/
inductive Instr where
  /-- SET_PIXEL, 0x01 -/
  | setPixel (ops : PixelOperands)
  /-- SET_BRIGHTNESS, 0x02 -/
  | setBrightness (ops : BrightnessOperands)
  /-- RENDER, 0x03 -/
  | render (tail : List Byte)
  /-- CLEAR, 0x04 -/
  | clear (tail : List Byte)
  /-- SET_RANGE, 0x05 -/
  | setRange (ops : RangeOperands)
  /-- SET_ALL, 0x06: the whole triples of the payload and the up to two bytes left over; how many triples the
  command needs depends on the configuration, not on the frame (R77) -/
  | setAll (colours : List Colour) (tail : List Byte)
  /-- RECONFIGURE, 0x07 -/
  | reconfigure (ops : ReconfigureOperands)
  /-- KEEPALIVE, 0xFF -/
  | keepalive (tail : List Byte)
deriving DecidableEq, Repr

end Sys2Proof
end

