-- ==== Sys2Proof/WellFormed.lean ====
section
/-! DEFINITION. Which terms of `Instr` stand for a frame: each frame that starts with a recognized opcode has exactly
one well-formed term, so the checks keep the short forms short and the leftover bytes out of the counted ones. -/

namespace Sys2Proof

/-- SET_PIXEL's short form has at most four payload bytes (R72: minimum length 6). -/
def PixelOperands.wellFormed : PixelOperands → Bool
  | .short payload => decide (payload.length < 5)
  | .full _ _ _ => true

/-- SET_BRIGHTNESS has one short form (R73: minimum length 2). -/
def BrightnessOperands.wellFormed : BrightnessOperands → Bool
  | .short => true
  | .full _ _ => true

/-- SET_RANGE: a short header has at most two payload bytes, a starved frame fewer colour bytes than its own header
announces, a full one at most 255 colours because `count` is one byte (R76). -/
def RangeOperands.wellFormed : RangeOperands → Bool
  | .short payload => decide (payload.length < 3)
  | .starved _ count data => decide (data.length < 3 * count.toNat)
  | .full _ colours _ => decide (colours.length ≤ 255)

/-- RECONFIGURE: a short frame has at most two payload bytes, and no byte follows an absent fifth byte (R79). -/
def ReconfigureOperands.wellFormed : ReconfigureOperands → Bool
  | .short payload => decide (payload.length < 3)
  | .full _ _ dbg tail => dbg.isSome || tail.isEmpty

/-- The terms that stand for a frame. -/
def Instr.wellFormed : Instr → Bool
  | .setPixel ops => ops.wellFormed
  | .setBrightness ops => ops.wellFormed
  | .render _ => true
  | .clear _ => true
  | .setRange ops => ops.wellFormed
  | .setAll _ tail => decide (tail.length < 3)
  | .reconfigure ops => ops.wellFormed
  | .keepalive _ => true

end Sys2Proof
end

