-- ==== Sys2Proof/Decode.lean ====
section
/-! DEFINITION. From the bytes of one frame to the command it is, and back (30_encoding.md). `decode` is total: a frame
is a command, or it is empty (R130), or its opcode is unrecognized (R84). -/

namespace Sys2Proof

/-! ### The opcode map (R83). The eight literals are the spec's, unaudited against the firmware (U11, log 17). -/

def opSetPixel : Byte := 0x01
def opSetBrightness : Byte := 0x02
def opRender : Byte := 0x03
def opClear : Byte := 0x04
def opSetRange : Byte := 0x05
def opSetAll : Byte := 0x06
def opReconfigure : Byte := 0x07
def opKeepalive : Byte := 0xFF

/-- The opcode byte of a command. -/
def opcodeOf : Instr → Byte
  | .setPixel _ => opSetPixel
  | .setBrightness _ => opSetBrightness
  | .render _ => opRender
  | .clear _ => opClear
  | .setRange _ => opSetRange
  | .setAll _ _ => opSetAll
  | .reconfigure _ => opReconfigure
  | .keepalive _ => opKeepalive

/-! ### Fields -/

/-- `u16be(hi, lo) = hi × 256 + lo` (R40, R80). -/
def u16be (hi lo : Byte) : Half := BitVec.ofNat 16 (hi.toNat * 256 + lo.toNat)

/-- `v[15:8]`, the byte sent first (R87). -/
def hiByte (v : Half) : Byte := v.extractLsb' 8 8

/-- `v[7:0]` (R87). -/
def loByte (v : Half) : Byte := v.extractLsb' 0 8

/-- The first `k` colours of `bytes`, each three bytes r, g, b (R41), and what follows them; none if there are
fewer than `3 × k` bytes. -/
def takeColours : Nat → List Byte → Option (List Colour × List Byte)
  | 0, bytes => some ([], bytes)
  | k + 1, r :: g :: b :: rest => (takeColours k rest).map fun (cs, tail) => (⟨r, g, b⟩ :: cs, tail)
  | _ + 1, _ => none

/-- All the whole colours of `bytes`, and the up to two bytes left over. -/
def allColours : List Byte → List Colour × List Byte
  | r :: g :: b :: rest => (⟨r, g, b⟩ :: (allColours rest).1, (allColours rest).2)
  | tail => ([], tail)

/-- The wire form of a list of colours (R41). -/
def colourBytes : List Colour → List Byte
  | [] => []
  | c :: cs => c.r :: c.g :: c.b :: colourBytes cs

/-! ### Decoding -/

/-- R72. -/
def decodePixel : List Byte → PixelOperands
  | hi :: lo :: r :: g :: b :: tail => .full (u16be hi lo) ⟨r, g, b⟩ tail
  | payload => .short payload

/-- R73. -/
def decodeBrightness : List Byte → BrightnessOperands
  | v :: tail => .full v tail
  | [] => .short

/-- R76: the count byte stands at offset 3 and the colours start at offset 4 (90_conflicts.md C2). -/
def decodeRange : List Byte → RangeOperands
  | hi :: lo :: count :: data =>
    match takeColours count.toNat data with
    | some (colours, tail) => .full (u16be hi lo) colours tail
    | none => .starved (u16be hi lo) count data
  | payload => .short payload

/-- R79: the fifth byte of the frame is optional. -/
def decodeReconfigure : List Byte → ReconfigureOperands
  | [s, hi, lo] => .full s (u16be hi lo) none []
  | s :: hi :: lo :: d :: tail => .full s (u16be hi lo) (some d) tail
  | payload => .short payload

/-- What a frame is: a command, nothing at all (`n = 0`, R130), or a frame whose opcode is none of the eight, rejected
by the name of that opcode (R84). -/
inductive Decoded where
  | empty
  | unrecognized (op : Byte)
  | instr (i : Instr)
deriving DecidableEq, Repr

/-- The selection by the whole byte `f[0]` (R83, R132). -/
def decode : List Byte → Decoded
  | [] => .empty
  | op :: payload =>
    if op = opSetPixel then .instr (.setPixel (decodePixel payload))
    else if op = opSetBrightness then .instr (.setBrightness (decodeBrightness payload))
    else if op = opRender then .instr (.render payload)
    else if op = opClear then .instr (.clear payload)
    else if op = opSetRange then .instr (.setRange (decodeRange payload))
    else if op = opSetAll then .instr (.setAll (allColours payload).1 (allColours payload).2)
    else if op = opReconfigure then .instr (.reconfigure (decodeReconfigure payload))
    else if op = opKeepalive then .instr (.keepalive payload)
    else .unrecognized op

/-! ### Encoding -/

def encodePixel : PixelOperands → List Byte
  | .short payload => payload
  | .full index c tail => hiByte index :: loByte index :: c.r :: c.g :: c.b :: tail

def encodeBrightness : BrightnessOperands → List Byte
  | .short => []
  | .full v tail => v :: tail

def encodeRange : RangeOperands → List Byte
  | .short payload => payload
  | .starved start count data => hiByte start :: loByte start :: count :: data
  | .full start colours tail =>
    hiByte start :: loByte start :: BitVec.ofNat 8 colours.length :: (colourBytes colours ++ tail)

def encodeReconfigure : ReconfigureOperands → List Byte
  | .short payload => payload
  | .full s len none tail => s :: hiByte len :: loByte len :: tail
  | .full s len (some d) tail => s :: hiByte len :: loByte len :: d :: tail

/-- The payload of a command's frame. -/
def encodePayload : Instr → List Byte
  | .setPixel ops => encodePixel ops
  | .setBrightness ops => encodeBrightness ops
  | .render tail => tail
  | .clear tail => tail
  | .setRange ops => encodeRange ops
  | .setAll colours tail => colourBytes colours ++ tail
  | .reconfigure ops => encodeReconfigure ops
  | .keepalive tail => tail

/-- The frame of a command (R70 to R79, R87). -/
def encode (i : Instr) : List Byte := opcodeOf i :: encodePayload i

/-! ### The words of spec/opcode_table.json -/

/-- The bytes of a table word, the first byte in bits 7..0. -/
def wordBytes : Nat → Nat → List Byte
  | 0, _ => []
  | k + 1, w => BitVec.ofNat 8 w :: wordBytes k (w / 256)

/-- How many bytes the frame that starts with `bytes` needs (R81), a byte that is not there counting as zero; the
length SET_ALL needs is that of the configuration `State.reset` starts in (log 18). -/
def tableFrameLength (bytes : List Byte) : Nat :=
  let op := bytes.headD 0
  if op = opSetPixel then 6
  else if op = opSetBrightness then 2
  else if op = opSetRange then 4 + 3 * (bytes.getD 3 0).toNat
  else if op = opSetAll then
    1 + 3 * (Params.reference.rstStrips.toNat * Params.reference.rstLen.toNat)
  else if op = opReconfigure then 4
  else 1

/-- The frame a table word stands for: its bytes, then zeros up to the length its command requires. -/
def tableFrame (nbits w : Nat) : List Byte :=
  let bytes := wordBytes (nbits / 8) w
  bytes ++ List.replicate (tableFrameLength bytes - bytes.length) 0

/-- The command `decode` reads from a table word. -/
def decodeTableWord (nbits w : Nat) : Option Instr :=
  match decode (tableFrame nbits w) with
  | .instr i => some i
  | _ => none

end Sys2Proof
end

