-- ==== Sys2Proof/Machine/Flags.lean ====
section
/-! DEFINITION. Every one-bit value and every counter the spec computes. -/

namespace Sys2Proof.Machine

/-- A counter's increment, modulo `2^CNT_W` (R29). -/
def bumpCounter (cntW n : Nat) : Nat := (n + 1) % 2 ^ cntW

/-- The 8-bit bitwise OR of all the payload bytes (R131). -/
def payloadOr (payload : List Byte) : Byte := payload.foldl (· ||| ·) 0

/-- The zero-payload anomaly (R131): a frame of two bytes or more, its opcode not exempt, its payload all zero. -/
def zeroPayload (exempt : List Byte) : List Byte → Bool
  | op :: b :: rest => !exempt.contains op && decide (payloadOr (b :: rest) = 0)
  | _ => false

/-- What the fifth byte of RECONFIGURE makes of `DEBUG` (R193). -/
def debugValue (flag : Byte) : Bool := decide (flag ≠ 0)

/-- `DEBUG` after an accepted RECONFIGURE: kept when the fifth byte is absent (R193). -/
def debugAfter (old : Bool) : Option Byte → Bool
  | none => old
  | some flag => debugValue flag

/-- `STATUS <- 1 - STATUS` (R134). -/
def toggled (level : Bool) : Bool := !level

end Sys2Proof.Machine
end

