-- ==== Sys2Proof/Machine/State.lean ====
section
/-! DEFINITION. The state of the block as plain data (10_state.md), the events it consumes (R5, R6), the outputs it
produces (R7), the outcomes of a frame (R200), the reasons a step can stop, and the state after reset (R240). -/

namespace Sys2Proof.Machine

/-- The status of one return of the exchange primitive (R6). The spec closes the set at `ok` and `timeout`; `other`
is a status a driver might return all the same, which the model refuses (D21, U19, log 6). -/
inductive ExchangeStatus where
  | ok
  | timeout
  | other (code : Nat)
deriving DecidableEq, Repr

/-- One atomic step of the block or of the world outside it (R5, R6, R108, R216, R220, R242). -/
inductive Event where
  /-- the select line changed to its selected level (R5), EDGE -/
  | selAssert
  /-- one complete byte was shifted in (R5), EDGE -/
  | byte (b : Byte)
  /-- the select line changed back (R5), EDGE -/
  | selDeassert
  /-- the moment the engine looks at RXRDY and takes the frame (R108), EDGE -/
  | consume
  /-- one return of the exchange primitive (R6), QUEUED -/
  | xfer (buf : List Byte) (len : Nat) (status : ExchangeStatus)
  /-- the reporter reads the snapshot (R220), either mode -/
  | report
  /-- the one reset, power-on (R240, R242), either mode (log 15) -/
  | powerCycle
deriving DecidableEq, Repr

/-- How the decoding of one frame ends (R200). -/
inductive FrameOutcome where
  | empty
  | ok
  | malformed (op : Byte) (n expected : Nat)
  | configRejected (strips : Byte) (len : Half)
  | outOfRange
  | unknownOpcode (op : Byte) (n : Nat)
deriving DecidableEq, Repr

/-- The four kinds of LOG events (R213). -/
inductive LogEvent where
  | malformed (op : Byte) (n expected : Nat)
  | configRejected (strips : Byte) (len : Half)
  | unknownOpcode (op : Byte) (n : Nat)
  | zeroPayload (op : Byte) (n : Nat)
deriving DecidableEq, Repr

/-- What the reporter sees (R220). -/
structure Snapshot where
  transactions       : Nat
  frames             : Nat
  malformed          : Nat
  lastRenderDuration : Nat
  zeroPayload        : Nat
deriving DecidableEq, Repr

/-- The output events of R7; the STATUS level is a cell of the state. -/
inductive Output where
  /-- the handoff to the strip-output driver: all NSLOTS cells in physical-slot order, and the brightness -/
  | render (pix : List Colour) (bright : Byte)
  | log (e : LogEvent)
  | snapshot (r : Snapshot)
deriving DecidableEq, Repr

/-- The two memories (R43): each a list of (address, cell) with strictly rising addresses. An unlisted cell of
`RXBUF` has no value (nothing has written it, log 8); an unlisted cell of `FB` is `IDLE`, and no entry of `fb` is
`IDLE`. -/
structure Memory where
  /-- `RXBUF` (R10) -/
  rx : List Host.Cell
  /-- `FB` (R15) -/
  fb : List (Nat × Colour)
deriving DecidableEq, Repr

/-- Every cell of 10_state.md, and the model's own four fields (INVENTORY.md). -/
structure State where
  /-- the build (model's own, log 1) -/
  params         : Params
  /-- `RXBUF` and `FB` (R10, R15) -/
  mem            : Memory
  /-- `WP` (R11) -/
  wp             : Nat
  /-- `ARMED` (R12) -/
  armed          : Bool
  /-- `RXCNT` (R13) -/
  rxcnt          : Nat
  /-- `RXRDY` (R14) -/
  rxrdy          : Bool
  /-- `CFG_STRIPS` (R16) -/
  cfgStrips      : Byte
  /-- `CFG_LEN` (R17) -/
  cfgLen         : Half
  /-- `BRIGHT` (R21) -/
  bright         : Byte
  /-- `DEBUG` (R22) -/
  debug          : Bool
  /-- `STATUS` (R23) -/
  status         : Bool
  /-- `TXN_COUNT` (R24) -/
  txnCount       : Nat
  /-- `FRAME_COUNT` (R25) -/
  frameCount     : Nat
  /-- `MALFORMED_COUNT` (R26) -/
  malformedCount : Nat
  /-- `ZPAY_COUNT` (R27) -/
  zpayCount      : Nat
  /-- `LAST_RENDER_DUR` (R28) -/
  lastRenderDur  : Nat
  /-- the events to come, the next one first (model's own, log 2) -/
  schedule       : List Event
  /-- the outputs so far, the oldest first (model's own, log 10) -/
  trace          : List Output
  /-- how many render durations have been drawn (model's own, log 7) -/
  draws          : Nat
deriving DecidableEq, Repr

/-- Why a step can stop with a fault. The block itself has no fault; each of these is the model's own and no state
that meets the invariant of Safety.lean raises one. -/
inductive Fault where
  /-- Raised by `consume`: the published frame has a byte that nothing has written (R10: no rule reads such a
  cell). Safe: the model stops where the block would read an unspecified byte (log 8). -/
  | rxUnwritten (k : Nat)
  /-- Raised by `consume`: `RXCNT` goes beyond `RX_MAX`, so the frame has a byte at an address that does not exist
  (R44). Safe (log 8). -/
  | rxOutside (k : Nat)
  /-- Raised by a pixel write at a slot outside `0 .. NSLOTS-1`, which does not exist (R45). Safe (log 9). -/
  | fbOutside (slot : Nat)
deriving DecidableEq, Repr

/-- Why a step can be refused: an input to which the spec gives no meaning. -/
inductive Refusal where
  /-- Raised by `exec` for a command that has no meaning yet. Safe. No arm raises it. -/
  | notModelled (mnemonic : String)
  /-- Raised by `runEvent` for an event that the build's front end does not have (R5, R6, R214). Safe (log 5). -/
  | eventNotInMode (e : Event)
  /-- Raised by `onXfer` for a status other than OK and TIMEOUT (D21, U19). Safe (log 6). -/
  | exchangeStatus (code : Nat)
  /-- Raised by `onXfer` for an OK return that breaks `len ≤ RX_MAX` or `len ≤ |buf|` (R6). Safe (log 6). -/
  | exchangeShape (len : Nat)
deriving DecidableEq, Repr

/-- Right after reset, in the build `p` (R240; each value in its own rule R10 to R28). -/
def State.resetFor (p : Params) : State where
  params         := p
  mem            := ⟨[], []⟩
  wp             := 0
  armed          := false
  rxcnt          := 0
  rxrdy          := false
  cfgStrips      := p.rstStrips
  cfgLen         := p.rstLen
  bright         := p.rstBright
  debug          := false
  status         := false
  txnCount       := 0
  frameCount     := 0
  malformedCount := 0
  zpayCount      := 0
  lastRenderDur  := 0
  schedule       := []
  trace          := []
  draws          := 0

/-- Right after reset, in the build P_EX (log 1). -/
def State.reset : State := State.resetFor Params.reference

end Sys2Proof.Machine
end

