-- ==== Sys2Proof/Machine/Translator.lean ====
section
/-! DEFINITION. The Address Translator (42_address_translator.md): logical pixel index to physical slot. -/

namespace Sys2Proof.Machine

/-- `slot(i)` under the configuration `(strips, len)` of a build with regions of `maxLeds` slots (R150), with the
defensive clamp to the last valid slot of the last active strip (R151). -/
def slotIn (maxLeds strips len i : Nat) : Nat :=
  if i / len ≤ strips - 1 then i / len * maxLeds + i % len
  else (strips - 1) * maxLeds + (len - 1)

/-- Membership in `ADDR(strips, len)` (R153). -/
def addressable (maxLeds strips len p : Nat) : Bool :=
  decide (p / maxLeds < strips) && decide (p % maxLeds < len)

/-- The inverse of `slot` on the addressable slots (R154). -/
def logicalIn (maxLeds len p : Nat) : Nat := p / maxLeds * len + p % maxLeds

/-- `TOTAL = CFG_STRIPS × CFG_LEN` (R18). -/
def total (s : State) : Nat := s.cfgStrips.toNat * s.cfgLen.toNat

/-- `slot(i)` under the configuration in force (R150, R156). -/
def slot (s : State) (i : Nat) : Nat :=
  slotIn s.params.maxLeds s.cfgStrips.toNat s.cfgLen.toNat i

/-- Whether slot `p` is addressable under the configuration in force (R153). -/
def addressableNow (s : State) (p : Nat) : Bool :=
  addressable s.params.maxLeds s.cfgStrips.toNat s.cfgLen.toNat p

end Sys2Proof.Machine
end

