-- ==== Sys2Proof/Machine/Operands.lean ====
section
/-! DEFINITION. The operands of the commands as the meanings use them: lengths (R81, R202), the clamped range (R166),
and the list of cells a command writes. -/

namespace Sys2Proof.Machine

/-! ### Lengths, the opcode byte included (R81) -/

def pixelLength : Nat := 6
def brightnessLength : Nat := 2
def rangeHeaderLength : Nat := 4
def rangeLength (count : Nat) : Nat := 4 + 3 * count
def setAllLength (totalLeds : Nat) : Nat := 1 + 3 * totalLeds
def reconfigureLength : Nat := 4

/-- The length of a frame that is the opcode and this payload. -/
def frameLengthOf (payload : List Byte) : Nat := 1 + payload.length

/-- The length `n` of the SET_RANGE frame whose whole header is followed by `data`. -/
def starvedLength (data : List Byte) : Nat := 4 + data.length

/-- The length `n` of the SET_ALL frame with these triples and leftover bytes. -/
def setAllFrameLength (colours : List Colour) (tail : List Byte) : Nat := 1 + 3 * colours.length + tail.length

/-! ### Ranges -/

/-- `m = min(count, TOTAL - start)` (R166). -/
def clampedCount (count totalLeds start : Nat) : Nat := min count (totalLeds - start)

/-- The two ranges RECONFIGURE's operands must lie in (R191). -/
def configInRange (p : Params) (strips : Byte) (len : Half) : Bool :=
  decide (1 ≤ strips.toNat) && decide (strips.toNat ≤ p.maxStrips) &&
  decide (1 ≤ len.toNat) && decide (len.toNat ≤ p.maxLeds)

/-! ### The cells a command writes -/

/-- `FB[slot(start + k)] <- colours[k]`, `k` from 0. -/
def rowWrites (s : State) (start : Nat) (colours : List Colour) : List (Nat × Colour) :=
  colours.mapIdx fun k c => (slot s (start + k), c)

/-- The writes of SET_RANGE: the first `m` colours (R166). -/
def rangeWrites (s : State) (start : Nat) (colours : List Colour) : List (Nat × Colour) :=
  rowWrites s start (colours.take (clampedCount colours.length (total s) start))

/-- The writes of SET_ALL through `slot`: the first TOTAL colours (R167). -/
def allWrites (s : State) (colours : List Colour) : List (Nat × Colour) :=
  rowWrites s 0 (colours.take (total s))

/-- The writes of CLEAR (R165). -/
def clearWrites (s : State) : List (Nat × Colour) :=
  (List.range (total s)).map fun i => (slot s i, Colour.idle)

/-- The writes of `BLANK_UNADDRESSED(strips, len)` (R168). -/
def blankWrites (p : Params) (strips len : Nat) : List (Nat × Colour) :=
  ((List.range p.nslots).filter fun q => !addressable p.maxLeds strips len q).map fun q => (q, Colour.idle)

/-- A colour in 24 bits, `r ++ g ++ b`, red in bits 23:16 (00_scope.md section 6, D25). -/
def packColour (c : Colour) : BitVec 24 := c.r ++ c.g ++ c.b

end Sys2Proof.Machine
end

