-- ==== Sys2Proof/Machine/Ops.lean ====
section
/-! DEFINITION. The named operations over the memories and the registers, and the one operation that ends a frame in
an outcome (R200 to R211), with the return from it beside it (R212). -/

namespace Sys2Proof.Machine

/-! ### Sparse memories -/

/-- The cell listed at address `a`. -/
def cellAt {α : Type} : List (Nat × α) → Nat → Option α
  | [], _ => none
  | (b, v) :: rest, a => if a = b then some v else cellAt rest a

/-- Lists `v` at address `a`, at its place in the rising order. -/
def putCell {α : Type} : List (Nat × α) → Nat → α → List (Nat × α)
  | [], a, v => [(a, v)]
  | (b, w) :: rest, a, v =>
    if a < b then (a, v) :: (b, w) :: rest
    else if a = b then (a, v) :: rest
    else (b, w) :: putCell rest a v

/-- Takes address `a` off the list. -/
def dropCell {α : Type} (m : List (Nat × α)) (a : Nat) : List (Nat × α) :=
  m.filter fun e => decide (e.1 ≠ a)

/-- Addresses strictly rising. -/
abbrev rising {α : Type} (m : List (Nat × α)) : Prop := m.Pairwise fun x y => x.1 < y.1

/-- The canonical form of the two memories in the build `p`: addresses strictly rising and inside their space (R43),
and no cell of FB listed as IDLE. -/
abbrev Memory.wf (p : Params) (m : Memory) : Prop :=
  (rising m.rx ∧ ∀ e ∈ m.rx, e.1 < p.rxMax) ∧
  (rising m.fb ∧ ∀ e ∈ m.fb, e.1 < p.nslots ∧ e.2 ≠ Colour.idle)

/-- What a cell of FB reads as: IDLE where nothing is listed (R15). -/
def fbRead (fb : List (Nat × Colour)) (p : Nat) : Colour := (cellAt fb p).getD Colour.idle

/-- `FB[p] <- c` (R45), keeping the canonical form. -/
def fbWrite (fb : List (Nat × Colour)) (p : Nat) (c : Colour) : List (Nat × Colour) :=
  if c = Colour.idle then dropCell fb p else putCell fb p c

/-- A list of writes, the first one first. -/
def fbWriteAll (fb : List (Nat × Colour)) (ws : List (Nat × Colour)) : List (Nat × Colour) :=
  ws.foldl (fun m w => fbWrite m w.1 w.2) fb

/-- All NSLOTS cells in physical-slot order, the `pix` of a render (R161). -/
def fbPixels (s : State) : List Colour := (List.range s.params.nslots).map (fbRead s.mem.fb)

/-- Bytes stored from address `k` on. -/
def rxWriteAll (rx : List Host.Cell) : Nat → List Byte → List Host.Cell
  | _, [] => rx
  | k, b :: rest => rxWriteAll (putCell rx k b) (k + 1) rest

/-- `MemRead(RX, k, n)` (R44): the bytes, or the fault of the first one that does not exist or has no value. -/
def rxRead (rxMax : Nat) (rx : List Host.Cell) (k : Nat) : Nat → Except Fault (List Byte)
  | 0 => .ok []
  | n + 1 =>
    if k < rxMax then
      match cellAt rx k with
      | some b => (rxRead rxMax rx (k + 1) n).map (b :: ·)
      | none => .error (.rxUnwritten k)
    else .error (.rxOutside k)

/-! ### State updates -/

/-- Puts `fb` in the place of the frame buffer. -/
def putFb (fb : List (Nat × Colour)) (s : State) : State := { s with mem := { s.mem with fb := fb } }

/-- Puts `rx` in the place of the receive buffer. -/
def putRx (rx : List Host.Cell) (s : State) : State := { s with mem := { s.mem with rx := rx } }

/-- `emit E` (00_scope.md section 6). -/
def emit (o : Output) (s : State) : State := { s with trace := s.trace ++ [o] }

/-- Writes the configuration pair (R16, R17). -/
def putConfig (strips : Byte) (len : Half) (s : State) : State := { s with cfgStrips := strips, cfgLen := len }

/-- Goes on after a next state; a fault or a refusal stays. -/
def onNext (o : Host.Outcome State Fault Refusal) (f : State → State) : Host.Outcome State Fault Refusal :=
  match o with
  | .next t => .next (f t)
  | .fault r => .fault r
  | .refused r => .refused r

/-- Pixel writes (R45): every slot must exist; then they are done in order. -/
def storePixels (ws : List (Nat × Colour)) (s : State) : Host.Outcome State Fault Refusal :=
  match ws.find? (fun w => decide (s.params.nslots ≤ w.1)) with
  | some w => .fault (.fbOutside w.1)
  | none => .next (putFb (fbWriteAll s.mem.fb ws) s)

/-- `BLANK_UNADDRESSED(strips, len)` (R168). -/
def blankUnaddressed (strips len : Nat) (s : State) : State :=
  putFb (fbWriteAll s.mem.fb (blankWrites s.params strips len)) s

/-- `DO_RENDER` (R161): the handoff, the drawn duration (a free value, log 7), the frame count. -/
def doRender (s : State) : State :=
  { s with
    trace := s.trace ++ [.render (fbPixels s) s.bright]
    lastRenderDur := (Config.renderDuration s.params.durW s.draws).toNat
    draws := s.draws + 1
    frameCount := bumpCounter s.params.cntW s.frameCount }

/-! ### Outcomes: the block's exceptions (R200, R211) -/

/-- Ends a frame in an outcome: its counter if it has one, its log event if it has one, and nothing else (R201 to
R205, R207, R211). -/
def raiseOutcome (o : FrameOutcome) (s : State) : State :=
  match o with
  | .empty => s
  | .ok => s
  | .malformed op n expected =>
    emit (.log (.malformed op n expected))
      { s with malformedCount := bumpCounter s.params.cntW s.malformedCount }
  | .configRejected strips len =>
    emit (.log (.configRejected strips len))
      { s with malformedCount := bumpCounter s.params.cntW s.malformedCount }
  | .outOfRange => s
  | .unknownOpcode op n => emit (.log (.unknownOpcode op n)) s

/-- The end of CONSUME, whatever the outcome: control is back in the engine's loop, which clears RXRDY (R109, R211,
R212). -/
def clearReady (s : State) : State := { s with rxrdy := false }

/-- `PRECHECK` (R131, R206): marks a zero-payload frame and never ends it. -/
def precheck (f : List Byte) (s : State) : State :=
  if zeroPayload s.params.zpExempt f then
    emit (.log (.zeroPayload (f.headD 0) f.length))
      { s with zpayCount := bumpCounter s.params.cntW s.zpayCount }
  else s

/-- `SNAPSHOT` (R220). -/
def snapshotOf (s : State) : Snapshot where
  transactions       := s.txnCount
  frames             := s.frameCount
  malformed          := s.malformedCount
  lastRenderDuration := s.lastRenderDur
  zeroPayload        := s.zpayCount

end Sys2Proof.Machine
end

