-- ==== Sys2Proof/Machine/ConfigurationCommands.lean ====
section
/-! DEFINITION. The one command that changes the configuration: RECONFIGURE (44_configuration.md). -/

namespace Sys2Proof.Machine

/-- RECONFIGURE (R190): validation before every write (R191), then the pair, the optional flag (R193), the blanking
and the forced render (R192). -/
def execReconfigure (ops : ReconfigureOperands) (s : State) : Host.Outcome State Fault Refusal :=
  match ops with
  | .short payload => .next (raiseOutcome (.malformed opReconfigure (frameLengthOf payload) reconfigureLength) s)
  | .full strips len debug _ =>
    if configInRange s.params strips len then
      .next (doRender (blankUnaddressed strips.toNat len.toNat
        { putConfig strips len s with debug := debugAfter s.debug debug }))
    else .next (raiseOutcome (.configRejected strips len) s)

end Sys2Proof.Machine
end

