-- ==== Sys2Proof/Machine/ControlCommands.lean ====
section
/-! DEFINITION. The commands that act on the control cells and the outputs: SET_BRIGHTNESS, RENDER
(43_framebuffer_commands.md), KEEPALIVE (41_command_decoder.md). -/

namespace Sys2Proof.Machine

/-- SET_BRIGHTNESS (R163): stores; the value leaves the block with the next render. -/
def execSetBrightness (ops : BrightnessOperands) (s : State) : Host.Outcome State Fault Refusal :=
  match ops with
  | .short => .next (raiseOutcome (.malformed opSetBrightness 1 brightnessLength) s)
  | .full v _ => .next { s with bright := v }

/-- RENDER (R164). -/
def execRender (_tail : List Byte) (s : State) : Host.Outcome State Fault Refusal :=
  .next (doRender s)

/-- KEEPALIVE (R134). -/
def execKeepalive (_tail : List Byte) (s : State) : Host.Outcome State Fault Refusal :=
  .next { s with status := toggled s.status }

end Sys2Proof.Machine
end

