-- ==== Sys2Proof/Machine/PixelCommands.lean ====
section
/-! DEFINITION. The commands that write pixels: SET_PIXEL, SET_RANGE, SET_ALL, CLEAR (43_framebuffer_commands.md). -/

namespace Sys2Proof.Machine

/-- SET_PIXEL (R162): length, then range, then the one cell. -/
def execSetPixel (ops : PixelOperands) (s : State) : Host.Outcome State Fault Refusal :=
  match ops with
  | .short payload => .next (raiseOutcome (.malformed opSetPixel (frameLengthOf payload) pixelLength) s)
  | .full index colour _ =>
    if total s ≤ index.toNat then .next (raiseOutcome .outOfRange s)
    else storePixels [(slot s index.toNat, colour)] s

/-- SET_RANGE (R166): the fixed length, the length its own header implies (with the unclamped count), the range, then
the first `m` colours. -/
def execSetRange (ops : RangeOperands) (s : State) : Host.Outcome State Fault Refusal :=
  match ops with
  | .short payload => .next (raiseOutcome (.malformed opSetRange (frameLengthOf payload) rangeHeaderLength) s)
  | .starved _ count data =>
    .next (raiseOutcome (.malformed opSetRange (starvedLength data) (rangeLength count.toNat)) s)
  | .full start colours _ =>
    if total s ≤ start.toNat then .next (raiseOutcome .outOfRange s)
    else storePixels (rangeWrites s start.toNat colours) s

/-- SET_ALL (R167): the length the configuration in force asks for, every addressable pixel from the payload, every
other slot blanked, then the render. -/
def execSetAll (colours : List Colour) (tail : List Byte) (s : State) : Host.Outcome State Fault Refusal :=
  if setAllFrameLength colours tail < setAllLength (total s) then
    .next (raiseOutcome (.malformed opSetAll (setAllFrameLength colours tail) (setAllLength (total s))) s)
  else
    onNext (storePixels (allWrites s colours) s) fun t =>
      doRender (blankUnaddressed s.cfgStrips.toNat s.cfgLen.toNat t)

/-- CLEAR (R165): every addressable slot idle, then the render. -/
def execClear (_tail : List Byte) (s : State) : Host.Outcome State Fault Refusal :=
  onNext (storePixels (clearWrites s) s) doRender

end Sys2Proof.Machine
end

