-- ==== Sys2Proof/Machine/Dispatch.lean ====
section
/-! DEFINITION. `DISPATCH` (R132): one arm per command. -/

namespace Sys2Proof.Machine

/-- The effect of one command (R132). -/
def exec (i : Instr) (s : State) : Host.Outcome State Fault Refusal :=
  match i with
  | .setPixel ops => Sys2Proof.Machine.execSetPixel ops s
  | .setBrightness ops => Sys2Proof.Machine.execSetBrightness ops s
  | .render tail => Sys2Proof.Machine.execRender tail s
  | .clear tail => Sys2Proof.Machine.execClear tail s
  | .setRange ops => Sys2Proof.Machine.execSetRange ops s
  | .setAll colours tail => Sys2Proof.Machine.execSetAll colours tail s
  | .reconfigure ops => Sys2Proof.Machine.execReconfigure ops s
  | .keepalive tail => Sys2Proof.Machine.execKeepalive tail s

end Sys2Proof.Machine
end

