-- ==== Sys2Proof/Machine/FrontEnd.lean ====
section
/-! DEFINITION. The capture context of EDGE mode (40_frame_synchronizer.md section 2): three total, atomic steps that
write nothing but RXBUF, WP, ARMED, RXCNT, RXRDY and TXN_COUNT (R52, R106). -/

namespace Sys2Proof.Machine

/-- `SEL_ASSERT` (R101): arms and discards partial data, unless a published frame is waiting (the gate). -/
def onSelAssert (s : State) : State :=
  if s.rxrdy then { s with armed := false } else { s with wp := 0, armed := true }

/-- `BYTE(b)` (R102): stored while armed and not full, otherwise discarded (R103). -/
def onByte (b : Byte) (s : State) : State :=
  if s.armed ∧ s.wp < s.params.rxMax then { putRx (putCell s.mem.rx s.wp b) s with wp := s.wp + 1 } else s

/-- `SEL_DEASSERT`: publishes a non-empty capture (R104), otherwise only disarms (R105). -/
def onSelDeassert (s : State) : State :=
  if s.armed ∧ 1 ≤ s.wp then
    { s with
      armed := false
      rxcnt := s.wp
      txnCount := bumpCounter s.params.cntW s.txnCount
      rxrdy := true }
  else { s with armed := false }

end Sys2Proof.Machine
end

