-- ==== Sys2Proof/Machine/Engine.lean ====
section
/-! DEFINITION. The engine: `DECODE` of one frame (41_command_decoder.md), `CONSUME` and `XFER`
(40_frame_synchronizer.md sections 3 and 4), and the choice of the next event. -/

namespace Sys2Proof.Machine

/-- `DECODE(f, n)` (R130): nothing for the empty frame, else the pre-check, then the one behaviour the opcode selects
(R132, R135). -/
def runFrame (f : List Byte) (s : State) : Host.Outcome State Fault Refusal :=
  match decode f with
  | .empty => .next (raiseOutcome .empty s)
  | .unrecognized op => .next (raiseOutcome (.unknownOpcode op f.length) (precheck f s))
  | .instr i => exec i (precheck f s)

/-- The published frame, `RXBUF[0 .. RXCNT-1]` (R108). -/
def readyFrame (s : State) : Except Fault (List Byte) := rxRead s.params.rxMax s.mem.rx 0 s.rxcnt

/-- `CONSUME` (R108, R109): with `RXRDY = 0` the step is not enabled and the engine goes on waiting (log 4). -/
def consume (s : State) : Host.Outcome State Fault Refusal :=
  if s.rxrdy then
    match readyFrame s with
    | .ok f => onNext (runFrame f s) clearReady
    | .error r => .fault r
  else .next s

/-- `XFER(buf, len, status)` (R110 to R112). -/
def onXfer (buf : List Byte) (len : Nat) (status : ExchangeStatus) (s : State) : Host.Outcome State Fault Refusal :=
  match status with
  | .timeout => .next s
  | .other code => .refused (.exchangeStatus code)
  | .ok =>
    if s.params.rxMax < len ∨ buf.length < len then .refused (.exchangeShape len)
    else if len = 0 then .next s
    else runFrame (buf.take len) { s with txnCount := bumpCounter s.params.cntW s.txnCount }

/-- The one reset (R240, R242): every cell of the block at its reset value; what is still to come and what the
outside has already seen are not the block's (log 15). -/
def powerOn (s : State) : State :=
  { State.resetFor s.params with schedule := s.schedule, trace := s.trace, draws := s.draws }

/-- One event. The capture context exists in EDGE mode only, the exchange primitive in QUEUED mode only (R4, R214). -/
def runEvent (e : Event) (s : State) : Host.Outcome State Fault Refusal :=
  match e, s.params.syncMode with
  | .selAssert, .edge => .next (onSelAssert s)
  | .selAssert, .queued => .refused (.eventNotInMode .selAssert)
  | .byte b, .edge => .next (onByte b s)
  | .byte b, .queued => .refused (.eventNotInMode (.byte b))
  | .selDeassert, .edge => .next (onSelDeassert s)
  | .selDeassert, .queued => .refused (.eventNotInMode .selDeassert)
  | .consume, .edge => consume s
  | .consume, .queued => .refused (.eventNotInMode .consume)
  | .xfer buf len status, .edge => .refused (.eventNotInMode (.xfer buf len status))
  | .xfer buf len status, .queued => onXfer buf len status s
  | .report, _ => .next (emit (.snapshot (snapshotOf s)) s)
  | .powerCycle, _ => .next (powerOn s)

/-- One step: the next event of the schedule. When none is left, the engine of an EDGE build takes the frame that is
ready (R118, log 3); otherwise the block waits, for ever if need be (R258). -/
def takeStep (s : State) : Host.Outcome State Fault Refusal :=
  match s.schedule with
  | e :: rest => runEvent e { s with schedule := rest }
  | [] => if s.params.syncMode = .edge then consume s else .next s

/-- Puts a whole frame where the very next step fetches it: published in RXBUF with CONSUME next (EDGE), or the next
return of the exchange primitive (QUEUED). At most `RX_MAX` bytes fit. -/
def placeFrame (f : List Byte) (s : State) : State :=
  match s.params.syncMode with
  | .edge =>
    { putRx (rxWriteAll s.mem.rx 0 (f.take s.params.rxMax)) s with
      rxcnt := (f.take s.params.rxMax).length
      rxrdy := true
      schedule := .consume :: s.schedule }
  | .queued =>
    { s with schedule := .xfer (f.take s.params.rxMax) (f.take s.params.rxMax).length .ok :: s.schedule }

end Sys2Proof.Machine
end

