-- ==== Sys2Proof/Machine/Step.lean ====
section
/-! DEFINITION. One step of the block. -/

namespace Sys2Proof.Machine

/-- One atomic step (R216). -/
def step (s : State) : Host.Outcome State Fault Refusal := takeStep s

/-- `s` with the frame of a table word placed where `step` takes its next frame. -/
def State.withFetchWord (s : State) (nbits w : Nat) : State := placeFrame (tableFrame nbits w) s

end Sys2Proof.Machine
end

