-- ==== Sys2Proof/Machine/Outcomes.lean ====
section
/-! DEFINITION. The outcome of one frame, written from the list of conditions (R202 to R205) and the order of the
checks (R210) alone, apart from the meanings of the commands. -/

namespace Sys2Proof.Machine

/-- Which of the outcomes `OK`, `MALFORMED`, `CONFIG_REJECTED`, `OUT_OF_RANGE` the command ends in (R200, R210). -/
def outcomeOf (i : Instr) (s : State) : FrameOutcome :=
  match i with
  | .setPixel (.short payload) => .malformed opSetPixel (1 + payload.length) 6
  | .setPixel (.full index _ _) => if index.toNat < total s then .ok else .outOfRange
  | .setBrightness .short => .malformed opSetBrightness 1 2
  | .setBrightness (.full _ _) => .ok
  | .render _ => .ok
  | .clear _ => .ok
  | .setRange (.short payload) => .malformed opSetRange (1 + payload.length) 4
  | .setRange (.starved _ count data) => .malformed opSetRange (4 + data.length) (4 + 3 * count.toNat)
  | .setRange (.full start _ _) => if start.toNat < total s then .ok else .outOfRange
  | .setAll colours tail =>
    if 1 + 3 * total s ≤ 1 + 3 * colours.length + tail.length then .ok
    else .malformed opSetAll (1 + 3 * colours.length + tail.length) (1 + 3 * total s)
  | .reconfigure (.short payload) => .malformed opReconfigure (1 + payload.length) 4
  | .reconfigure (.full strips len _ _) =>
    if 1 ≤ strips.toNat ∧ strips.toNat ≤ s.params.maxStrips ∧ 1 ≤ len.toNat ∧ len.toNat ≤ s.params.maxLeds then .ok
    else .configRejected strips len
  | .keepalive _ => .ok

/-- The commands whose accepted execution ends with one render (R160). -/
def renderClass : Instr → Bool
  | .setPixel _ => false
  | .setBrightness _ => false
  | .render _ => true
  | .clear _ => true
  | .setRange _ => false
  | .setAll _ _ => true
  | .reconfigure _ => true
  | .keepalive _ => false

end Sys2Proof.Machine
end

