-- ==== Sys2Proof/Safety.lean ====
section
/-! DEFINITION. What a good state is (the invariants R10, R14, R19, R20, R110 state in prose), what an input the spec
gives a meaning is, and what a run shows to the outside (R32, R257). -/

namespace Sys2Proof.Machine

/-- The configuration invariant (R19). -/
abbrev ConfigInv (s : State) : Prop :=
  (1 ≤ s.cfgStrips.toNat ∧ s.cfgStrips.toNat ≤ s.params.maxStrips) ∧
  (1 ≤ s.cfgLen.toNat ∧ s.cfgLen.toNat ≤ s.params.maxLeds)

/-- The idle invariant (R20): every unaddressed slot holds IDLE. -/
abbrev IdleInv (s : State) : Prop :=
  ∀ p < s.params.nslots, addressableNow s p = false → fbRead s.mem.fb p = Colour.idle

/-- The handoff invariant: pointers within the buffer (R11, R13), never armed while a frame is ready (R102), every
byte the capture or the ready frame counts has been written (R10), and nothing of it used in a QUEUED build (R110). -/
abbrev HandoffInv (s : State) : Prop :=
  s.wp ≤ s.params.rxMax ∧ s.rxcnt ≤ s.params.rxMax ∧
  (s.rxrdy = true → s.armed = false) ∧ (s.rxrdy = true → 1 ≤ s.rxcnt) ∧
  (s.armed = true → ∀ k < s.wp, (cellAt s.mem.rx k).isSome = true) ∧
  (s.rxrdy = true → ∀ k < s.rxcnt, (cellAt s.mem.rx k).isSome = true) ∧
  (s.params.syncMode = .queued → s.wp = 0 ∧ s.armed = false ∧ s.rxcnt = 0 ∧ s.rxrdy = false)

/-- The counters and the duration lie within their widths (R24 to R29). -/
abbrev CounterInv (s : State) : Prop :=
  s.txnCount < 2 ^ s.params.cntW ∧ s.frameCount < 2 ^ s.params.cntW ∧
  s.malformedCount < 2 ^ s.params.cntW ∧ s.zpayCount < 2 ^ s.params.cntW ∧
  s.lastRenderDur < 2 ^ s.params.durW

/-- The invariant every step keeps. -/
structure Inv (s : State) : Prop where
  params   : s.params.Valid
  mem      : s.mem.wf s.params
  config   : ConfigInv s
  idle     : IdleInv s
  handoff  : HandoffInv s
  counters : CounterInv s

/-- The events a build's interface has and the spec gives a meaning (R5, R6, D21). -/
def admissible (p : Params) : Event → Bool
  | .selAssert => decide (p.syncMode = .edge)
  | .byte _ => decide (p.syncMode = .edge)
  | .selDeassert => decide (p.syncMode = .edge)
  | .consume => decide (p.syncMode = .edge)
  | .xfer buf len status =>
    decide (p.syncMode = .queued) &&
      match status with
      | .ok => decide (len ≤ p.rxMax) && decide (len ≤ buf.length)
      | .timeout => true
      | .other _ => false
  | .report => true
  | .powerCycle => true

/-- No transaction open and no frame waiting (R257). -/
def atRest (s : State) : Bool := !s.armed && !s.rxrdy

/-- A run of `k` steps of the machine, stopping at the first fault or refusal (R257): the host's run of
`Sys2Proof.core`, at the type of the states. -/
def runSteps (k : Nat) (s : State) : Host.Outcome State Fault Refusal := Host.Core.run Sys2Proof.core k s

/-- What a run shows to the outside (R32, R257). -/
structure Observation where
  outputs  : List Output
  status   : Bool
  snapshot : Snapshot
deriving DecidableEq, Repr

def observe (s : State) : Observation := ⟨s.trace, s.status, snapshotOf s⟩

/-- Whether an output is a RENDER event. -/
def isRender : Output → Bool
  | .render _ _ => true
  | .log _ => false
  | .snapshot _ => false

/-- `s` with the cells that only the reporter and the log may show blanked out: the four counters, the render
duration and DEBUG (R22, R28, R29). -/
def withoutDiagnostics (s : State) : State :=
  { s with
    txnCount := 0
    frameCount := 0
    malformedCount := 0
    zpayCount := 0
    lastRenderDur := 0
    debug := false }

/-- Whether this step counts a received transaction: a publishing end edge, or an OK exchange of one byte or more
(R24). -/
def receives (s : State) : Bool :=
  match s.schedule with
  | .selDeassert :: _ => s.armed && decide (1 ≤ s.wp)
  | .xfer _ len .ok :: _ => decide (1 ≤ len)
  | _ => false

end Sys2Proof.Machine
end

