-- ==== Sys2Proof/Certificates/Slice0/Obligations.lean ====
section
/-! DEFINITION. The statements about the block, file by file of the spec. Each says in its docstring the rule it
formalises. -/

open Sys2Proof Sys2Proof.Machine

/-! ### 30_encoding.md -/

/-- Every well-formed command is what its own frame decodes to, with every operand at every value (R70 to R79). -/
def Obligations.DecodeOfEncodeIsTheInstruction : Prop :=
  ∀ i : Instr, i.wellFormed = true → decode (encode i) = .instr i

/-- Every frame that decodes to a command is that command's frame, byte for byte, and the command is well formed: no
byte of the frame is lost (R70, R82). -/
def Obligations.EncodeOfDecodeIsTheFrame : Prop :=
  ∀ (f : List Byte) (i : Instr), decode f = .instr i → encode i = f ∧ i.wellFormed = true

/-- R83, R84: the whole byte `f[0]` alone selects the command; 248 values select none. -/
def Obligations.OpcodeByteSelectsTheCommand : Prop :=
  ∀ (op : Byte) (payload : List Byte),
    (op = 0x01 → ∃ ops, decode (op :: payload) = .instr (.setPixel ops)) ∧
    (op = 0x02 → ∃ ops, decode (op :: payload) = .instr (.setBrightness ops)) ∧
    (op = 0x03 → decode (op :: payload) = .instr (.render payload)) ∧
    (op = 0x04 → decode (op :: payload) = .instr (.clear payload)) ∧
    (op = 0x05 → ∃ ops, decode (op :: payload) = .instr (.setRange ops)) ∧
    (op = 0x06 → ∃ colours tail, decode (op :: payload) = .instr (.setAll colours tail)) ∧
    (op = 0x07 → ∃ ops, decode (op :: payload) = .instr (.reconfigure ops)) ∧
    (op = 0xFF → decode (op :: payload) = .instr (.keepalive payload)) ∧
    (op = 0x00 ∨ (0x08 ≤ op.toNat ∧ op.toNat ≤ 0xFE) → decode (op :: payload) = .unrecognized op)

/-- The layouts of the multi-byte fields (R40, R41, R72, R76, R77, R79): big-endian, colours r, g, b, the bytes beyond
the layout kept apart, and the short frames kept as they are. -/
def Obligations.FrameFieldsStandWhereTheLayoutsSay : Prop :=
  (∀ (hi lo r g b : Byte) (tail : List Byte), ∃ index : Half,
    index.toNat = hi.toNat * 256 + lo.toNat ∧
    decode (0x01 :: hi :: lo :: r :: g :: b :: tail) = .instr (.setPixel (.full index ⟨r, g, b⟩ tail))) ∧
  (∀ payload : List Byte, payload.length + 1 < 6 → decode (0x01 :: payload) = .instr (.setPixel (.short payload))) ∧
  (∀ (hi lo count : Byte) (colours : List Colour) (tail : List Byte), colours.length = count.toNat →
    ∃ start : Half, start.toNat = hi.toNat * 256 + lo.toNat ∧
      decode (0x05 :: hi :: lo :: count :: ((colours.flatMap fun c => [c.r, c.g, c.b]) ++ tail)) =
        .instr (.setRange (.full start colours tail))) ∧
  (∀ (hi lo count : Byte) (data : List Byte), data.length < 3 * count.toNat →
    ∃ start : Half, start.toNat = hi.toNat * 256 + lo.toNat ∧
      decode (0x05 :: hi :: lo :: count :: data) = .instr (.setRange (.starved start count data))) ∧
  (∀ payload : List Byte, payload.length + 1 < 4 → decode (0x05 :: payload) = .instr (.setRange (.short payload))) ∧
  (∀ (colours : List Colour) (tail : List Byte), tail.length < 3 →
    decode (0x06 :: ((colours.flatMap fun c => [c.r, c.g, c.b]) ++ tail)) = .instr (.setAll colours tail)) ∧
  (∀ strips hi lo : Byte, ∃ len : Half, len.toNat = hi.toNat * 256 + lo.toNat ∧
    decode [0x07, strips, hi, lo] = .instr (.reconfigure (.full strips len none []))) ∧
  (∀ (strips hi lo d : Byte) (tail : List Byte), ∃ len : Half, len.toNat = hi.toNat * 256 + lo.toNat ∧
    decode (0x07 :: strips :: hi :: lo :: d :: tail) = .instr (.reconfigure (.full strips len (some d) tail))) ∧
  (∀ payload : List Byte, payload.length + 1 < 4 →
    decode (0x07 :: payload) = .instr (.reconfigure (.short payload)))

/-- A few frames written out by hand from the layouts of 30_encoding.md section 2. -/
def Obligations.WrittenOutFramesDecode : Prop :=
  decode [0x01, 0x00, 0x04, 0x0A, 0x14, 0x1E] = .instr (.setPixel (.full 4 ⟨10, 20, 30⟩ [])) ∧
  decode [0x02, 0x80] = .instr (.setBrightness (.full 128 [])) ∧
  decode [0x03] = .instr (.render []) ∧
  decode [0x04] = .instr (.clear []) ∧
  decode [0x05, 0x01, 0x02, 0x01, 0x07, 0x08, 0x09] = .instr (.setRange (.full 258 [⟨7, 8, 9⟩] [])) ∧
  decode [0x06, 0x01, 0x02, 0x03] = .instr (.setAll [⟨1, 2, 3⟩] []) ∧
  decode [0x07, 0x02, 0x01, 0x00] = .instr (.reconfigure (.full 2 256 none [])) ∧
  decode [0xFF] = .instr (.keepalive [])

/-! ### 42_address_translator.md -/

/-- R150: the translation, with the clamp of the else branch, under every valid configuration. -/
def Obligations.SlotFollowsTheTranslationFormula : Prop :=
  ∀ (s : State) (i : Nat), ConfigInv s →
    (i / s.cfgLen.toNat ≤ s.cfgStrips.toNat - 1 →
      slot s i = i / s.cfgLen.toNat * s.params.maxLeds + i % s.cfgLen.toNat) ∧
    (s.cfgStrips.toNat - 1 < i / s.cfgLen.toNat →
      slot s i = (s.cfgStrips.toNat - 1) * s.params.maxLeds + (s.cfgLen.toNat - 1)) ∧
    (s.cfgStrips.toNat - 1 < i / s.cfgLen.toNat ↔ total s ≤ i)

/-- R152: the translator never leaves the frame buffer. -/
def Obligations.SlotStaysInsideTheFrameBuffer : Prop :=
  ∀ (s : State) (i : Nat), ConfigInv s → slot s i ≤ s.params.nslots - 1 ∧ slot s i < s.params.nslots

/-- R153: `ADDR(S, L)` is the image of `slot` over `[0, TOTAL)`, has `S × L` elements, and is told by division and
remainder. -/
def Obligations.AddressableSlotsAreTheImageOfSlot : Prop :=
  ∀ s : State, ConfigInv s →
    (∀ p : Nat, addressableNow s p = true ↔
      ∃ a o, a < s.cfgStrips.toNat ∧ o < s.cfgLen.toNat ∧ p = a * s.params.maxLeds + o) ∧
    (∀ p : Nat, addressableNow s p = true ↔ ∃ i < total s, slot s i = p) ∧
    (∀ p : Nat, addressableNow s p = true ↔
      p / s.params.maxLeds < s.cfgStrips.toNat ∧ p % s.params.maxLeds < s.cfgLen.toNat) ∧
    ((List.range s.params.nslots).filter fun p => addressableNow s p).length = s.cfgStrips.toNat * s.cfgLen.toNat

/-- R154: no two logical pixels share a slot; the inverse; and the clamp beyond `TOTAL`. -/
def Obligations.SlotIsInjectiveWithAnInverse : Prop :=
  ∀ s : State, ConfigInv s →
    (∀ i j, i < total s → j < total s → slot s i = slot s j → i = j) ∧
    (∀ i < total s, logicalIn s.params.maxLeds s.cfgLen.toNat (slot s i) = i) ∧
    (∀ p, addressableNow s p = true → slot s (logicalIn s.params.maxLeds s.cfgLen.toNat p) = p) ∧
    (∀ i, total s ≤ i → slot s i = slot s (total s - 1))

/-- R155: logical order is physical order. -/
def Obligations.SlotKeepsTheLogicalOrder : Prop :=
  ∀ (s : State) (i j : Nat), ConfigInv s → i < j → j < total s → slot s i < slot s j

/-! ### 41_command_decoder.md and 60_exceptions.md -/

/-- R131: the pre-check counts and logs exactly the frames of two bytes or more whose opcode is not exempt and whose
payload bytes are all zero, and nothing else; then the frame is dispatched, flagged or not, recognized or not. -/
def Obligations.PrecheckMarksAllZeroPayloads : Prop :=
  ∀ (op : Byte) (payload : List Byte) (s : State),
    (payload ≠ [] ∧ op ∉ s.params.zpExempt ∧ (∀ b ∈ payload, b = 0) →
      precheck (op :: payload) s =
        { s with
          zpayCount := (s.zpayCount + 1) % 2 ^ s.params.cntW
          trace := s.trace ++ [.log (.zeroPayload op (payload.length + 1))] }) ∧
    (payload = [] ∨ op ∈ s.params.zpExempt ∨ (∃ b ∈ payload, b ≠ 0) → precheck (op :: payload) s = s) ∧
    (∀ i, decode (op :: payload) = .instr i →
      runFrame (op :: payload) s = exec i (precheck (op :: payload) s)) ∧
    (∀ op', decode (op :: payload) = .unrecognized op' →
      runFrame (op :: payload) s =
        .next (raiseOutcome (.unknownOpcode op' (payload.length + 1)) (precheck (op :: payload) s)))

/-- R204, R135: an unrecognized opcode is logged and dropped after the pre-check, whatever the length, and
MALFORMED_COUNT does not move. -/
def Obligations.UnknownOpcodeIsLoggedAndDropped : Prop :=
  ∀ (op : Byte) (payload : List Byte) (s : State),
    (op = 0x00 ∨ (0x08 ≤ op.toNat ∧ op.toNat ≤ 0xFE)) →
    ∃ t, runFrame (op :: payload) s = .next t ∧
      t = { precheck (op :: payload) s with
            trace := (precheck (op :: payload) s).trace ++ [.log (.unknownOpcode op (payload.length + 1))] } ∧
      t = { s with zpayCount := t.zpayCount, trace := t.trace }

/-- R130, R207: the empty frame does nothing. -/
def Obligations.EmptyFrameIsNoOp : Prop :=
  ∀ s : State, runFrame [] s = .next s

/-- R130, R132: a frame whose opcode is one of the eight runs exactly the command it decodes to, after the
pre-check. -/
def Obligations.FrameRunsTheCommandItDecodesTo : Prop :=
  ∀ (f : List Byte) (i : Instr) (s : State), decode f = .instr i → runFrame f s = exec i (precheck f s)

/-- R202: each line of its table, over the frame's bytes, with the effects it gives; and a frame that logs a MALFORMED
event meets one of those lines, so that no other frame, and no other command, raises it. -/
def Obligations.ShortFramesAreMalformed : Prop :=
  (∀ (s : State) (payload : List Byte),
    (payload.length + 1 < 6 → runFrame (0x01 :: payload) s =
      .next { precheck (0x01 :: payload) s with
        malformedCount := (s.malformedCount + 1) % 2 ^ s.params.cntW
        trace := (precheck (0x01 :: payload) s).trace ++ [.log (.malformed 0x01 (payload.length + 1) 6)] }) ∧
    (payload.length + 1 < 2 → runFrame (0x02 :: payload) s =
      .next { precheck (0x02 :: payload) s with
        malformedCount := (s.malformedCount + 1) % 2 ^ s.params.cntW
        trace := (precheck (0x02 :: payload) s).trace ++ [.log (.malformed 0x02 (payload.length + 1) 2)] }) ∧
    (payload.length + 1 < 4 → runFrame (0x05 :: payload) s =
      .next { precheck (0x05 :: payload) s with
        malformedCount := (s.malformedCount + 1) % 2 ^ s.params.cntW
        trace := (precheck (0x05 :: payload) s).trace ++ [.log (.malformed 0x05 (payload.length + 1) 4)] }) ∧
    (∀ count : Byte, payload[2]? = some count → payload.length + 1 < 4 + 3 * count.toNat →
      runFrame (0x05 :: payload) s =
        .next { precheck (0x05 :: payload) s with
          malformedCount := (s.malformedCount + 1) % 2 ^ s.params.cntW
          trace := (precheck (0x05 :: payload) s).trace ++
            [.log (.malformed 0x05 (payload.length + 1) (4 + 3 * count.toNat))] }) ∧
    (payload.length + 1 < 1 + 3 * total s → runFrame (0x06 :: payload) s =
      .next { precheck (0x06 :: payload) s with
        malformedCount := (s.malformedCount + 1) % 2 ^ s.params.cntW
        trace := (precheck (0x06 :: payload) s).trace ++
          [.log (.malformed 0x06 (payload.length + 1) (1 + 3 * total s))] }) ∧
    (payload.length + 1 < 4 → runFrame (0x07 :: payload) s =
      .next { precheck (0x07 :: payload) s with
        malformedCount := (s.malformedCount + 1) % 2 ^ s.params.cntW
        trace := (precheck (0x07 :: payload) s).trace ++ [.log (.malformed 0x07 (payload.length + 1) 4)] })) ∧
  (∀ (s t : State) (f : List Byte), runFrame f s = .next t → ∃ evs, t.trace = s.trace ++ evs ∧
    ∀ op n expected, Output.log (.malformed op n expected) ∈ evs →
      f[0]? = some op ∧ n = f.length ∧ n < expected ∧
      ((op = 0x01 ∧ expected = 6) ∨ (op = 0x02 ∧ expected = 2) ∨ (op = 0x05 ∧ expected = 4) ∨
        (op = 0x05 ∧ ∃ count : Byte, f[3]? = some count ∧ expected = 4 + 3 * count.toNat) ∨
        (op = 0x06 ∧ expected = 1 + 3 * total s) ∨ (op = 0x07 ∧ expected = 4)))

/-- R203: out-of-range addressing is silent, and a clamped SET_RANGE is not out of range: it writes the part that
fits. -/
def Obligations.OutOfRangeIsSilent : Prop :=
  ∀ s : State,
    (∀ (index : Half) (colour : Colour) (tail : List Byte), total s ≤ index.toNat →
      exec (.setPixel (.full index colour tail)) s = .next s) ∧
    (∀ (start : Half) (colours : List Colour) (tail : List Byte), total s ≤ start.toNat →
      exec (.setRange (.full start colours tail)) s = .next s) ∧
    (∀ (start : Half) (colours : List Colour) (tail : List Byte), ConfigInv s → start.toNat < total s →
      total s < start.toNat + colours.length →
      ∃ t, exec (.setRange (.full start colours tail)) s = .next t ∧
        (∀ k (h : k < colours.length), start.toNat + k < total s →
          fbRead t.mem.fb (slot s (start.toNat + k)) = colours[k]) ∧
        t = { s with mem := ⟨s.mem.rx, t.mem.fb⟩ })

/-- R205: a RECONFIGURE with a value out of range counts and logs, and does nothing else. -/
def Obligations.BadConfigurationIsRejected : Prop :=
  ∀ (strips : Byte) (len : Half) (debug : Option Byte) (tail : List Byte) (s : State),
    (strips.toNat < 1 ∨ s.params.maxStrips < strips.toNat ∨ len.toNat < 1 ∨ s.params.maxLeds < len.toNat) →
    exec (.reconfigure (.full strips len debug tail)) s =
      .next { s with
        malformedCount := (s.malformedCount + 1) % 2 ^ s.params.cntW
        trace := s.trace ++ [.log (.configRejected strips len)] }

/-- R210, R200: the conditions and the order of the checks, written down apart from the meanings (`outcomeOf`), tell
which commands do not run, and those end in that outcome and nothing else. -/
def Obligations.CommandsEndInTheOutcomeTheChecksGive : Prop :=
  ∀ (i : Instr) (s : State), outcomeOf i s ≠ .ok → exec i s = .next (raiseOutcome (outcomeOf i s) s)

/-- R211, R133: a command that ends in an outcome other than OK has changed nothing but the malformed count and the
log: the outputs so far stay, and no RENDER is among the new ones. -/
def Obligations.RejectedCommandsMutateNothing : Prop :=
  ∀ (i : Instr) (s : State), outcomeOf i s ≠ .ok →
    ∃ t evs, exec i s = .next t ∧ t.trace = s.trace ++ evs ∧ (∀ o ∈ evs, isRender o = false) ∧
      t = { s with malformedCount := t.malformedCount, trace := t.trace }

/-- R134: KEEPALIVE, whatever follows its opcode, inverts STATUS and does nothing else; two of them restore it. -/
def Obligations.KeepaliveTogglesTheIndicator : Prop :=
  ∀ (s : State) (tail tail' : List Byte),
    decode (0xFF :: tail) = .instr (.keepalive tail) ∧
    exec (.keepalive tail) s = .next { s with status := !s.status } ∧
    ∃ t, exec (.keepalive tail) s = .next t ∧ exec (.keepalive tail') t = .next s

/-! ### 43_framebuffer_commands.md -/

/-- R162: SET_PIXEL, its operands in the frame and its three endings. -/
def Obligations.SetPixelWritesOneCell : Prop :=
  ∀ s : State,
    (∀ (hi lo r g b : Byte) (tail : List Byte), ∃ index : Half,
      index.toNat = hi.toNat * 256 + lo.toNat ∧
      decode (0x01 :: hi :: lo :: r :: g :: b :: tail) = .instr (.setPixel (.full index ⟨r, g, b⟩ tail))) ∧
    (∀ payload : List Byte, 1 + payload.length < 6 →
      decode (0x01 :: payload) = .instr (.setPixel (.short payload))) ∧
    (∀ payload : List Byte, exec (.setPixel (.short payload)) s =
      .next { s with
        malformedCount := (s.malformedCount + 1) % 2 ^ s.params.cntW
        trace := s.trace ++ [.log (.malformed 0x01 (1 + payload.length) 6)] }) ∧
    (∀ (index : Half) (colour : Colour) (tail : List Byte), total s ≤ index.toNat →
      exec (.setPixel (.full index colour tail)) s = .next s) ∧
    (∀ (index : Half) (colour : Colour) (tail : List Byte), ConfigInv s → index.toNat < total s →
      ∃ t, exec (.setPixel (.full index colour tail)) s = .next t ∧
        fbRead t.mem.fb (slot s index.toNat) = colour ∧
        (∀ p, p ≠ slot s index.toNat → fbRead t.mem.fb p = fbRead s.mem.fb p) ∧
        addressableNow t (slot s index.toNat) = true ∧
        t = { s with mem := ⟨s.mem.rx, t.mem.fb⟩ })

/-- R163: SET_BRIGHTNESS, its operand in the frame and its two endings. -/
def Obligations.SetBrightnessStoresOnly : Prop :=
  ∀ s : State,
    (decode [0x02] = .instr (.setBrightness .short)) ∧
    (∀ (v : Byte) (tail : List Byte), decode (0x02 :: v :: tail) = .instr (.setBrightness (.full v tail))) ∧
    (exec (.setBrightness .short) s =
      .next { s with
        malformedCount := (s.malformedCount + 1) % 2 ^ s.params.cntW
        trace := s.trace ++ [.log (.malformed 0x02 1 2)] }) ∧
    (∀ (v : Byte) (tail : List Byte), exec (.setBrightness (.full v tail)) s = .next { s with bright := v })

/-- R164, R161: RENDER hands over every cell in slot order with the brightness, overwrites the duration with some
value of its width (which one is free) and counts one frame. -/
def Obligations.RenderHandsOverTheWholeBuffer : Prop :=
  ∀ (s : State) (tail : List Byte), decode (0x03 :: tail) = .instr (.render tail) ∧
    ∃ t pix, exec (.render tail) s = .next t ∧
    pix.length = s.params.nslots ∧
    (∀ p, p < s.params.nslots → pix[p]? = some (fbRead s.mem.fb p)) ∧
    t.lastRenderDur < 2 ^ s.params.durW ∧
    t = { s with
          trace := s.trace ++ [.render pix s.bright]
          lastRenderDur := t.lastRenderDur
          draws := s.draws + 1
          frameCount := (s.frameCount + 1) % 2 ^ s.params.cntW }

/-- R165: CLEAR idles every addressable cell and renders; under the idle invariant nothing but IDLE is left. -/
def Obligations.ClearIdlesAndRenders : Prop :=
  ∀ (s : State) (tail : List Byte), ConfigInv s → decode (0x04 :: tail) = .instr (.clear tail) ∧
    ∃ t, exec (.clear tail) s = .next t ∧
    (∀ i < total s, fbRead t.mem.fb (slot s i) = Colour.idle) ∧
    (∀ p, (∀ i < total s, slot s i ≠ p) → fbRead t.mem.fb p = fbRead s.mem.fb p) ∧
    (IdleInv s → ∀ p < s.params.nslots, fbRead t.mem.fb p = Colour.idle) ∧
    t.lastRenderDur < 2 ^ s.params.durW ∧
    t = { s with
          mem := ⟨s.mem.rx, t.mem.fb⟩
          trace := s.trace ++ [.render (fbPixels t) s.bright]
          lastRenderDur := t.lastRenderDur
          draws := s.draws + 1
          frameCount := (s.frameCount + 1) % 2 ^ s.params.cntW }

/-- R166: SET_RANGE, its operands in the frame and its four endings, the count clamped at `TOTAL`. -/
def Obligations.SetRangeWritesTheClampedRange : Prop :=
  ∀ s : State,
    (∀ (hi lo count : Byte) (colours : List Colour) (tail : List Byte), colours.length = count.toNat →
      ∃ start : Half, start.toNat = hi.toNat * 256 + lo.toNat ∧
        decode (0x05 :: hi :: lo :: count :: ((colours.flatMap fun c => [c.r, c.g, c.b]) ++ tail)) =
          .instr (.setRange (.full start colours tail))) ∧
    (∀ (hi lo count : Byte) (data : List Byte), 4 + data.length < 4 + 3 * count.toNat →
      ∃ start : Half, decode (0x05 :: hi :: lo :: count :: data) = .instr (.setRange (.starved start count data))) ∧
    (∀ payload : List Byte, 1 + payload.length < 4 →
      decode (0x05 :: payload) = .instr (.setRange (.short payload))) ∧
    (∀ payload : List Byte, exec (.setRange (.short payload)) s =
      .next { s with
        malformedCount := (s.malformedCount + 1) % 2 ^ s.params.cntW
        trace := s.trace ++ [.log (.malformed 0x05 (1 + payload.length) 4)] }) ∧
    (∀ (start : Half) (count : Byte) (data : List Byte), exec (.setRange (.starved start count data)) s =
      .next { s with
        malformedCount := (s.malformedCount + 1) % 2 ^ s.params.cntW
        trace := s.trace ++ [.log (.malformed 0x05 (4 + data.length) (4 + 3 * count.toNat))] }) ∧
    (∀ (start : Half) (colours : List Colour) (tail : List Byte), total s ≤ start.toNat →
      exec (.setRange (.full start colours tail)) s = .next s) ∧
    (∀ (start : Half) (colours : List Colour) (tail : List Byte), ConfigInv s → start.toNat < total s →
      ∃ t, exec (.setRange (.full start colours tail)) s = .next t ∧
        (∀ k (h : k < colours.length), k < min colours.length (total s - start.toNat) →
          fbRead t.mem.fb (slot s (start.toNat + k)) = colours[k]) ∧
        (∀ p, (∀ k < min colours.length (total s - start.toNat), slot s (start.toNat + k) ≠ p) →
          fbRead t.mem.fb p = fbRead s.mem.fb p) ∧
        t = { s with mem := ⟨s.mem.rx, t.mem.fb⟩ })

/-- R167: SET_ALL, its frame and its two endings. The hypothesis on `tail` is the command's well-formedness. -/
def Obligations.SetAllWritesEveryPixelAndRenders : Prop :=
  ∀ (s : State) (colours : List Colour) (tail : List Byte), tail.length < 3 →
    encode (.setAll colours tail) = 0x06 :: ((colours.flatMap fun c => [c.r, c.g, c.b]) ++ tail) ∧
    decode (encode (.setAll colours tail)) = .instr (.setAll colours tail) ∧
    ((encode (.setAll colours tail)).length < 1 + 3 * total s →
      exec (.setAll colours tail) s =
        .next { s with
          malformedCount := (s.malformedCount + 1) % 2 ^ s.params.cntW
          trace := s.trace ++
            [.log (.malformed 0x06 (encode (.setAll colours tail)).length (1 + 3 * total s))] }) ∧
    (ConfigInv s → 1 + 3 * total s ≤ (encode (.setAll colours tail)).length →
      ∃ t, exec (.setAll colours tail) s = .next t ∧
        (∀ i, i < total s → ∃ h : i < colours.length, fbRead t.mem.fb (slot s i) = colours[i]) ∧
        (∀ p < s.params.nslots, addressableNow s p = false → fbRead t.mem.fb p = Colour.idle) ∧
        (∀ p, s.params.nslots ≤ p → fbRead t.mem.fb p = fbRead s.mem.fb p) ∧
        t.lastRenderDur < 2 ^ s.params.durW ∧
        t = { s with
              mem := ⟨s.mem.rx, t.mem.fb⟩
              trace := s.trace ++ [.render (fbPixels t) s.bright]
              lastRenderDur := t.lastRenderDur
              draws := s.draws + 1
              frameCount := (s.frameCount + 1) % 2 ^ s.params.cntW })

/-- R160: an accepted command of the render class appends exactly one RENDER event, its last output; no other command
and no rejected one appends any, nor does an unrecognized frame. FRAME_COUNT moves with it. -/
def Obligations.OnlyAcceptedRenderClassCommandsRender : Prop :=
  (∀ (i : Instr) (s t : State), exec i s = .next t →
    ∃ evs, t.trace = s.trace ++ evs ∧
      (renderClass i = true ∧ outcomeOf i s = .ok →
        evs = [.render (fbPixels t) t.bright] ∧ t.frameCount = (s.frameCount + 1) % 2 ^ s.params.cntW) ∧
      (renderClass i = false ∨ outcomeOf i s ≠ .ok →
        (∀ o ∈ evs, isRender o = false) ∧ t.frameCount = s.frameCount)) ∧
  (∀ (f : List Byte) (op : Byte) (s t : State), decode f = .unrecognized op → runFrame f s = .next t →
    ∃ evs, t.trace = s.trace ++ evs ∧ (∀ o ∈ evs, isRender o = false) ∧ t.frameCount = s.frameCount)

/-- The source's property P1 (43_framebuffer_commands.md section 6): SET_RANGE then RENDER shows the payload colours
in their pixels and every other pixel as it was. -/
def Obligations.SetRangeThenRenderShowsThePayload : Prop :=
  ∀ (s : State) (start : Half) (colours : List Colour) (tail tail' : List Byte), ConfigInv s →
    start.toNat < total s → start.toNat + colours.length ≤ total s →
    ∃ u t pix, exec (.setRange (.full start colours tail)) s = .next u ∧ exec (.render tail') u = .next t ∧
      t.trace = s.trace ++ [.render pix s.bright] ∧ pix.length = s.params.nslots ∧
      (∀ k (h : k < colours.length), pix[slot s (start.toNat + k)]? = some colours[k]) ∧
      (∀ i < total s, (i < start.toNat ∨ start.toNat + colours.length ≤ i) →
        pix[slot s i]? = some (fbRead s.mem.fb (slot s i)))

/-- R170 over a run: the number of RENDER events equals FRAME_COUNT modulo its width, in every build, for every list
of events that holds no power cycle, after any number of steps. -/
def Obligations.FrameCountCountsTheRenders : Prop :=
  ∀ (p : Params) (es : List Event) (k : Nat) (t : State), Event.powerCycle ∉ es →
    runSteps k { State.resetFor p with schedule := es } = .next t →
    t.frameCount = (t.trace.countP isRender) % 2 ^ p.cntW

/-! ### 44_configuration.md -/

/-- R190: RECONFIGURE, its operands in the frame and its three endings. -/
def Obligations.ReconfigureAppliesBlanksAndRenders : Prop :=
  ∀ s : State,
    (∀ strips hi lo : Byte, ∃ len : Half, len.toNat = hi.toNat * 256 + lo.toNat ∧
      decode [0x07, strips, hi, lo] = .instr (.reconfigure (.full strips len none [])) ∧
      ∀ (d : Byte) (tail : List Byte), decode (0x07 :: strips :: hi :: lo :: d :: tail) =
        .instr (.reconfigure (.full strips len (some d) tail))) ∧
    (∀ payload : List Byte, 1 + payload.length < 4 →
      decode (0x07 :: payload) = .instr (.reconfigure (.short payload))) ∧
    (∀ payload : List Byte, exec (.reconfigure (.short payload)) s =
      .next { s with
        malformedCount := (s.malformedCount + 1) % 2 ^ s.params.cntW
        trace := s.trace ++ [.log (.malformed 0x07 (1 + payload.length) 4)] }) ∧
    (∀ (strips : Byte) (len : Half) (debug : Option Byte) (tail : List Byte),
      (strips.toNat < 1 ∨ s.params.maxStrips < strips.toNat ∨ len.toNat < 1 ∨ s.params.maxLeds < len.toNat) →
      exec (.reconfigure (.full strips len debug tail)) s =
        .next { s with
          malformedCount := (s.malformedCount + 1) % 2 ^ s.params.cntW
          trace := s.trace ++ [.log (.configRejected strips len)] }) ∧
    (∀ (strips : Byte) (len : Half) (debug : Option Byte) (tail : List Byte),
      1 ≤ strips.toNat → strips.toNat ≤ s.params.maxStrips → 1 ≤ len.toNat → len.toNat ≤ s.params.maxLeds →
      ∃ t, exec (.reconfigure (.full strips len debug tail)) s = .next t ∧
        (debug = none → t.debug = s.debug) ∧
        (∀ d, debug = some d → (t.debug = true ↔ d ≠ 0)) ∧
        (∀ p < s.params.nslots, ¬(p / s.params.maxLeds < strips.toNat ∧ p % s.params.maxLeds < len.toNat) →
          fbRead t.mem.fb p = Colour.idle) ∧
        (∀ p, s.params.nslots ≤ p ∨ (p / s.params.maxLeds < strips.toNat ∧ p % s.params.maxLeds < len.toNat) →
          fbRead t.mem.fb p = fbRead s.mem.fb p) ∧
        t.lastRenderDur < 2 ^ s.params.durW ∧
        t = { s with
              cfgStrips := strips
              cfgLen := len
              debug := t.debug
              mem := ⟨s.mem.rx, t.mem.fb⟩
              trace := s.trace ++ [.render (fbPixels t) s.bright]
              lastRenderDur := t.lastRenderDur
              draws := s.draws + 1
              frameCount := (s.frameCount + 1) % 2 ^ s.params.cntW })

/-- R192 (the source's property P2): the render forced by a RECONFIGURE, and a RENDER after it, show IDLE at every
slot outside the new space; and no other command changes the addressable space. -/
def Obligations.ReconfigureRendersTheBlankedBuffer : Prop :=
  (∀ (s : State) (strips : Byte) (len : Half) (debug : Option Byte) (tail tail' : List Byte),
    1 ≤ strips.toNat → strips.toNat ≤ s.params.maxStrips → 1 ≤ len.toNat → len.toNat ≤ s.params.maxLeds →
    ∃ t u pix, exec (.reconfigure (.full strips len debug tail)) s = .next t ∧ exec (.render tail') t = .next u ∧
      t.cfgStrips = strips ∧ t.cfgLen = len ∧
      u.trace = s.trace ++ [.render pix s.bright, .render pix s.bright] ∧
      ∀ p < s.params.nslots, ¬(p / s.params.maxLeds < strips.toNat ∧ p % s.params.maxLeds < len.toNat) →
        pix[p]? = some Colour.idle) ∧
  (∀ (i : Instr) (s t : State), exec i s = .next t → (∃ p, addressableNow t p ≠ addressableNow s p) →
    ∃ strips len debug tail, i = .reconfigure (.full strips len debug tail))

/-- R194: the pair changes only through an accepted RECONFIGURE: no other frame, no event of a front end and no error
changes it; any legal pair follows any pair in one command; a power cycle keeps none (R242, by the event of log 15,
the model's own). -/
def Obligations.ConfigurationChangesOnlyByReconfigure : Prop :=
  (∀ s t : State, step s = .next t → (t.cfgStrips ≠ s.cfgStrips ∨ t.cfgLen ≠ s.cfgLen) →
    s.schedule.head? = some .powerCycle ∨
    ∃ f strips len debug tail,
      ((s.rxrdy = true ∧ readyFrame s = .ok f) ∨
        ∃ buf n, s.schedule.head? = some (.xfer buf n .ok) ∧ f = buf.take n) ∧
      decode f = .instr (.reconfigure (.full strips len debug tail)) ∧
      1 ≤ strips.toNat ∧ strips.toNat ≤ s.params.maxStrips ∧ 1 ≤ len.toNat ∧ len.toNat ≤ s.params.maxLeds ∧
      t.cfgStrips = strips ∧ t.cfgLen = len) ∧
  (∀ (s : State) (strips : Byte) (len : Half),
    1 ≤ strips.toNat → strips.toNat ≤ s.params.maxStrips → 1 ≤ len.toNat → len.toNat ≤ s.params.maxLeds →
    ∃ t, exec (.reconfigure (.full strips len none [])) s = .next t ∧ t.cfgStrips = strips ∧ t.cfgLen = len) ∧
  (∀ (s t : State) (rest : List Event), s.schedule = .powerCycle :: rest → step s = .next t →
    t.cfgStrips = s.params.rstStrips ∧ t.cfgLen = s.params.rstLen)

/-- R16, R17, R22 (10_state.md section 1, R194), R21, R23 (R221), R15, R25, R26, R28, R52: which command may change
which cell, and that no command touches the handoff, the transaction count, the zero-payload count, the build or the
schedule. -/
def Obligations.EachCellHasItsOwnWriters : Prop :=
  ∀ (i : Instr) (s t : State), exec i s = .next t →
    (t.cfgStrips ≠ s.cfgStrips ∨ t.cfgLen ≠ s.cfgLen ∨ t.debug ≠ s.debug →
      ∃ strips len debug tail, i = .reconfigure (.full strips len debug tail)) ∧
    (t.bright ≠ s.bright → ∃ v tail, i = .setBrightness (.full v tail)) ∧
    (t.status ≠ s.status → ∃ tail, i = .keepalive tail) ∧
    (t.mem.fb ≠ s.mem.fb →
      (∃ ops, i = .setPixel ops) ∨ (∃ ops, i = .setRange ops) ∨ (∃ cs tail, i = .setAll cs tail) ∨
      (∃ tail, i = .clear tail) ∨ (∃ ops, i = .reconfigure ops)) ∧
    (t.lastRenderDur ≠ s.lastRenderDur → renderClass i = true ∧ outcomeOf i s = .ok) ∧
    (t.frameCount ≠ s.frameCount → renderClass i = true ∧ outcomeOf i s = .ok) ∧
    (t.malformedCount ≠ s.malformedCount →
      (∃ op n expected, outcomeOf i s = .malformed op n expected) ∨
      (∃ strips len, outcomeOf i s = .configRejected strips len)) ∧
    t.mem.rx = s.mem.rx ∧ t.wp = s.wp ∧ t.armed = s.armed ∧ t.rxcnt = s.rxcnt ∧ t.rxrdy = s.rxrdy ∧
    t.txnCount = s.txnCount ∧ t.zpayCount = s.zpayCount ∧ t.params = s.params ∧ t.schedule = s.schedule

/-! ### 40_frame_synchronizer.md -/

/-- R101: the start edge and the gate. -/
def Obligations.SelectAssertArmsUnlessAFrameWaits : Prop :=
  ∀ (s : State) (rest : List Event), s.params.syncMode = .edge → s.schedule = .selAssert :: rest →
    (s.rxrdy = false → step s = .next { s with schedule := rest, wp := 0, armed := true }) ∧
    (s.rxrdy = true → step s = .next { s with schedule := rest, armed := false })

/-- R102: a byte is stored at WP while armed and not full, and changes nothing otherwise. -/
def Obligations.ByteIsStoredOnlyWhileArmedAndNotFull : Prop :=
  ∀ (s : State) (b : Byte) (rest : List Event), s.params.syncMode = .edge → s.schedule = .byte b :: rest →
    (s.armed = true → s.wp < s.params.rxMax →
      ∃ t, step s = .next t ∧ cellAt t.mem.rx s.wp = some b ∧
        (∀ k, k ≠ s.wp → cellAt t.mem.rx k = cellAt s.mem.rx k) ∧
        t = { s with schedule := rest, mem := ⟨t.mem.rx, s.mem.fb⟩, wp := s.wp + 1 }) ∧
    (s.armed = false ∨ s.params.rxMax ≤ s.wp → step s = .next { s with schedule := rest }) ∧
    (HandoffInv s → s.armed = true → s.rxrdy = false)

/-- R104, R105: the end edge publishes a non-empty capture and otherwise only disarms. -/
def Obligations.SelectDeassertPublishesANonEmptyCapture : Prop :=
  ∀ (s : State) (rest : List Event), s.params.syncMode = .edge → s.schedule = .selDeassert :: rest →
    (s.armed = true → 1 ≤ s.wp →
      step s = .next { s with
        schedule := rest
        armed := false
        rxcnt := s.wp
        txnCount := (s.txnCount + 1) % 2 ^ s.params.cntW
        rxrdy := true }) ∧
    (s.armed = true → s.wp = 0 → step s = .next { s with schedule := rest, armed := false }) ∧
    (s.armed = false → step s = .next { s with schedule := rest })

/-- R103, R104, R113: one transaction of at least one byte that passes the gate is published with its first RX_MAX
bytes, whatever they are, and counted once. -/
def Obligations.WholeTransactionIsPublishedTruncated : Prop :=
  ∀ (s : State) (bytes : List Byte) (rest : List Event),
    s.params.syncMode = .edge → s.rxrdy = false → 1 ≤ s.params.rxMax → bytes ≠ [] →
    s.schedule = .selAssert :: (bytes.map .byte ++ .selDeassert :: rest) →
    ∃ t, runSteps (bytes.length + 2) s = .next t ∧
      readyFrame t = .ok (bytes.take s.params.rxMax) ∧
      t = { s with
            schedule := rest
            mem := ⟨t.mem.rx, s.mem.fb⟩
            wp := min bytes.length s.params.rxMax
            armed := false
            rxcnt := min bytes.length s.params.rxMax
            rxrdy := true
            txnCount := (s.txnCount + 1) % 2 ^ s.params.cntW }

/-- R116: a transaction whose start edge finds a frame waiting is lost in full and leaves no trace. -/
def Obligations.GatedTransactionLeavesNoTrace : Prop :=
  ∀ (s : State) (bytes : List Byte) (rest : List Event),
    s.params.syncMode = .edge → s.rxrdy = true →
    s.schedule = .selAssert :: (bytes.map .byte ++ .selDeassert :: rest) →
    runSteps (bytes.length + 2) s = .next { s with schedule := rest, armed := false }

/-- R105 (the source's property P5): a zero-length transaction that passes the gate changes nothing but WP and ARMED,
which the next start edge sets anyway. -/
def Obligations.ZeroLengthTransactionIsNoOp : Prop :=
  ∀ (s : State) (rest : List Event), s.params.syncMode = .edge → s.rxrdy = false →
    s.schedule = .selAssert :: .selDeassert :: rest →
    runSteps 2 s = .next { s with schedule := rest, wp := 0, armed := false }

/-- R107: while a frame is ready and stays ready, its count and its bytes do not change. -/
def Obligations.ReadyFrameIsFrozen : Prop :=
  ∀ s t : State, HandoffInv s → s.rxrdy = true → step s = .next t → t.rxrdy = true →
    t.rxcnt = s.rxcnt ∧ (∀ k < s.rxcnt, cellAt t.mem.rx k = cellAt s.mem.rx k) ∧ readyFrame t = readyFrame s

/-- R52, R106: every step of the capture context completes and writes only its own cells. -/
def Obligations.CaptureContextWritesOnlyItsCells : Prop :=
  ∀ (s : State) (e : Event) (rest : List Event), s.params.syncMode = .edge →
    (e = .selAssert ∨ (∃ b, e = .byte b) ∨ e = .selDeassert) → s.schedule = e :: rest →
    ∃ t, step s = .next t ∧ (s.rxrdy = true → t.rxrdy = true) ∧
      t = { s with
            schedule := rest
            mem := ⟨t.mem.rx, s.mem.fb⟩
            wp := t.wp
            armed := t.armed
            rxcnt := t.rxcnt
            rxrdy := t.rxrdy
            txnCount := t.txnCount }

/-- A STEP RUNS THE DECODED COMMAND (R108, R109, R110): CONSUME, asked for by the schedule or taken because nothing is
left in it (log 3), runs the command the ready frame decodes to, after the pre-check, and clears RXRDY; an OK exchange runs the
command its first `len` bytes decode to after counting the transaction. A frame with an unrecognized opcode is, in the
same places, logged and dropped after the pre-check (R135, R204), and RXRDY cleared (R109, R211). -/
def Obligations.StepRunsTheDecodedCommand : Prop :=
  (∀ (s : State) (f : List Byte) (i : Instr) (rest : List Event),
    s.params.syncMode = .edge → s.rxrdy = true → readyFrame s = .ok f → decode f = .instr i →
    (s.schedule = .consume :: rest ∨ (s.schedule = [] ∧ rest = [])) →
    step s = onNext (exec i (precheck f { s with schedule := rest })) clearReady) ∧
  (∀ (s : State) (buf : List Byte) (len : Nat) (i : Instr) (rest : List Event),
    s.params.syncMode = .queued → s.schedule = .xfer buf len .ok :: rest →
    1 ≤ len → len ≤ s.params.rxMax → len ≤ buf.length → decode (buf.take len) = .instr i →
    step s = exec i (precheck (buf.take len)
      { s with schedule := rest, txnCount := (s.txnCount + 1) % 2 ^ s.params.cntW })) ∧
  (∀ (s : State) (f : List Byte) (op : Byte) (rest : List Event),
    s.params.syncMode = .edge → s.rxrdy = true → readyFrame s = .ok f → decode f = .unrecognized op →
    (s.schedule = .consume :: rest ∨ (s.schedule = [] ∧ rest = [])) →
    ∃ t marks, step s = .next t ∧
      (precheck f s).trace = s.trace ++ marks ∧
      t = { s with
            schedule := rest
            rxrdy := false
            zpayCount := (precheck f s).zpayCount
            trace := s.trace ++ marks ++ [.log (.unknownOpcode op f.length)] }) ∧
  (∀ (s : State) (buf : List Byte) (len : Nat) (op : Byte) (rest : List Event),
    s.params.syncMode = .queued → s.schedule = .xfer buf len .ok :: rest →
    1 ≤ len → len ≤ s.params.rxMax → len ≤ buf.length → decode (buf.take len) = .unrecognized op →
    ∃ t marks, step s = .next t ∧
      (precheck (buf.take len) s).trace = s.trace ++ marks ∧
      t = { s with
            schedule := rest
            txnCount := (s.txnCount + 1) % 2 ^ s.params.cntW
            zpayCount := (precheck (buf.take len) s).zpayCount
            trace := s.trace ++ marks ++ [.log (.unknownOpcode op len)] })

/-- R111, R112: a zero-length exchange and a timeout, whatever `buf` and `len`, change nothing. -/
def Obligations.EmptyExchangeAndTimeoutAreNoOps : Prop :=
  ∀ (s : State) (buf : List Byte) (len : Nat) (rest : List Event), s.params.syncMode = .queued →
    (s.schedule = .xfer buf 0 .ok :: rest ∨ s.schedule = .xfer buf len .timeout :: rest) →
    step s = .next { s with schedule := rest }

/-- The model's choices of logs 3 and 4: a CONSUME that is not enabled only passes, and a block with no event left and
no frame ready waits (R108, R258). -/
def Obligations.EngineWaitsForAReadyFrame : Prop :=
  ∀ (s : State) (rest : List Event), s.rxrdy = false →
    (s.params.syncMode = .edge → s.schedule = .consume :: rest → step s = .next { s with schedule := rest }) ∧
    (s.schedule = [] → step s = .next s)

/-- A command sent on the wire takes effect (R101 to R104, R108, R109, R130): in an EDGE build whose gate is open, the
frame of any well-formed command that fits the buffer, sent as one transaction and consumed, runs exactly that command,
after the pre-check, on the state the front end leaves, and RXRDY is clear again. -/
def Obligations.WireTransactionExecutesItsCommand : Prop :=
  ∀ (s : State) (i : Instr) (rest : List Event),
    s.params.syncMode = .edge → s.rxrdy = false → i.wellFormed = true → (encode i).length ≤ s.params.rxMax →
    s.schedule = .selAssert :: ((encode i).map .byte ++ .selDeassert :: .consume :: rest) →
    ∃ u, u = { s with
               schedule := rest
               mem := ⟨u.mem.rx, s.mem.fb⟩
               wp := (encode i).length
               armed := false
               rxcnt := (encode i).length
               rxrdy := true
               txnCount := (s.txnCount + 1) % 2 ^ s.params.cntW } ∧
      (∀ k (h : k < (encode i).length), cellAt u.mem.rx k = some (encode i)[k]) ∧
      runSteps ((encode i).length + 3) s =
        onNext (exec i (precheck (encode i) u)) clearReady

/-! ### 10_state.md, 60_exceptions.md section 6, 70_reset_and_hazards.md -/

/-- R240: the reset state of every build. RXBUF is left unspecified by the rule and is not spoken of here. -/
def Obligations.ResetStateIsAsSpecified : Prop :=
  (∀ p : Params,
    (State.resetFor p).armed = false ∧ (State.resetFor p).wp = 0 ∧
    (State.resetFor p).rxrdy = false ∧ (State.resetFor p).rxcnt = 0 ∧
    (∀ q, fbRead (State.resetFor p).mem.fb q = Colour.idle) ∧
    (State.resetFor p).cfgStrips = p.rstStrips ∧ (State.resetFor p).cfgLen = p.rstLen ∧
    (State.resetFor p).bright = p.rstBright ∧ (State.resetFor p).debug = false ∧
    (State.resetFor p).status = false ∧ (State.resetFor p).txnCount = 0 ∧ (State.resetFor p).frameCount = 0 ∧
    (State.resetFor p).malformedCount = 0 ∧ (State.resetFor p).zpayCount = 0 ∧
    (State.resetFor p).lastRenderDur = 0 ∧ (State.resetFor p).trace = [] ∧
    (p.Valid → ConfigInv (State.resetFor p) ∧ IdleInv (State.resetFor p))) ∧
  (Params.reference.rstStrips.toNat = Params.reference.maxStrips ∧
    Params.reference.rstLen.toNat = Params.reference.maxLeds)

/-- R19, R20, R10, R14 at reset: the invariant holds in the reset state of every valid build, and in `State.reset`, the
reset state of the build P_EX (the model's choice, log 1). -/
def Obligations.InvariantHoldsAtReset : Prop :=
  State.reset = State.resetFor Params.reference ∧ Inv State.reset ∧ ∀ p : Params, p.Valid → Inv (State.resetFor p)

/-- R19, R20, R171, R10, R29: every step keeps the invariant: the build valid, the memories canonical, the
configuration in range, every unaddressed slot idle, the handoff consistent, the counters within their widths. -/
def Obligations.EveryStepKeepsTheInvariant : Prop :=
  ∀ s t : State, Inv s → step s = .next t → Inv t ∧ t.params = s.params

/-- The block has no fault (60_exceptions.md head, R10, R45, R152): no step faults from a state that meets the
invariant, whatever event comes. -/
def Obligations.GoodStatesNeverFault : Prop :=
  ∀ (s : State) (r : Fault), Inv s → step s ≠ .fault r

/-- R106, R258: from a state that meets the invariant, every event of the build's own interface completes and is used
up. The model's choices in it: a CONSUME with RXRDY = 0 completes and is used up (log 4), a step with nothing left in
the schedule answers (log 3), and the interface counts the reporter's read (log 11) and the power cycle (log 15). -/
def Obligations.AdmissibleEventsAlwaysComplete : Prop :=
  ∀ s : State, Inv s → (∀ e ∈ s.schedule, admissible s.params e = true) →
    ∃ t, step s = .next t ∧ t.schedule = s.schedule.tail

/-- R244, R258: from reset, in every valid build, every list of admissible events runs for as many steps as one likes
without a fault or a refusal, in states that meet the invariant. The model's choices in it: the steps after the list is
used up (log 3), a CONSUME with RXRDY = 0 (log 4), the reporter's read (log 11) and the power cycle (log 15). -/
def Obligations.EveryRunFromResetGoesOn : Prop :=
  ∀ (p : Params) (es : List Event) (k : Nat), p.Valid → (∀ e ∈ es, admissible p e = true) →
    ∃ t, runSteps k { State.resetFor p with schedule := es } = .next t ∧
      Inv t ∧ t.params = p ∧ t.schedule = es.drop k

/-- R171, R161: what a step renders is the buffer and the brightness it leaves, all NSLOTS cells of it; from a state
that meets the invariant no RENDER event shows a colour at a slot that is unaddressed at the render. -/
def Obligations.NoRenderShowsAStaleColour : Prop :=
  ∀ s t : State, step s = .next t →
    ∃ evs, t.trace = s.trace ++ evs ∧
      ∀ pix bright, Output.render pix bright ∈ evs →
        pix = fbPixels t ∧ bright = t.bright ∧ pix.length = s.params.nslots ∧
        (Inv s → ∀ p < s.params.nslots, addressableNow t p = false → pix[p]? = some Colour.idle)

/-- R29, R28, R22: no decision of the block depends on a counter, on the render duration or on DEBUG: two states that
differ only there take steps that differ only there, with the same outputs. The reporter's own read is the one event
left out. That the LOG events are the same too when DEBUG differs is the model's choice (log 13): R22, R225 and U10 let
DEBUG = 1 add LOG events. -/
def Obligations.DiagnosticsNeverSteerTheBlock : Prop :=
  ∀ s s' t : State, withoutDiagnostics s = withoutDiagnostics s' → s.schedule.head? ≠ some .report →
    step s = .next t →
    ∃ t', step s' = .next t' ∧ withoutDiagnostics t = withoutDiagnostics t'

/-- R29: a step moves a counter by nothing or by one modulo `2^CNT_W`; only a power cycle resets it. -/
def Obligations.CountersMoveByOneAndWrap : Prop :=
  ∀ s t : State, s.schedule.head? ≠ some .powerCycle → step s = .next t →
    (t.txnCount = s.txnCount ∨ t.txnCount = (s.txnCount + 1) % 2 ^ s.params.cntW) ∧
    (t.frameCount = s.frameCount ∨ t.frameCount = (s.frameCount + 1) % 2 ^ s.params.cntW) ∧
    (t.malformedCount = s.malformedCount ∨ t.malformedCount = (s.malformedCount + 1) % 2 ^ s.params.cntW) ∧
    (t.zpayCount = s.zpayCount ∨ t.zpayCount = (s.zpayCount + 1) % 2 ^ s.params.cntW)

/-- R24: TXN_COUNT moves with each published frame and each OK exchange of one byte or more, and at no other time; it
is the `transactions` field of the snapshot; reset 0. -/
def Obligations.TransactionCountCountsReceivedFrames : Prop :=
  (∀ s t : State, s.schedule.head? ≠ some .powerCycle → step s = .next t →
    t.txnCount = if receives s = true then (s.txnCount + 1) % 2 ^ s.params.cntW else s.txnCount) ∧
  (∀ s : State, (snapshotOf s).transactions = s.txnCount) ∧
  (∀ p : Params, (State.resetFor p).txnCount = 0)

/-- R220 by the event of log 11, the model's own: the reporter's read shows the five cells and changes no cell of the
block. -/
def Obligations.SnapshotReadChangesNoCell : Prop :=
  ∀ (s : State) (rest : List Event), s.schedule = .report :: rest →
    step s = .next { s with
      schedule := rest
      trace := s.trace ++
        [.snapshot ⟨s.txnCount, s.frameCount, s.malformedCount, s.lastRenderDur, s.zpayCount⟩] }

/-- R242 by the event of log 15, the model's own: a power cycle puts every cell of the block at its reset value. -/
def Obligations.PowerCycleKeepsNothing : Prop :=
  ∀ (s : State) (rest : List Event), s.schedule = .powerCycle :: rest →
    step s = .next { State.resetFor s.params with schedule := rest, trace := s.trace, draws := s.draws }

/-- D21, R6, R214: an event the build has no interface for, an exchange status that is neither OK nor TIMEOUT, and an OK
exchange that breaks R6's bounds are refused by name. The names are the model's (logs 5, 6). -/
def Obligations.InputsWithoutMeaningAreRefused : Prop :=
  ∀ (s : State) (e : Event) (rest : List Event), s.schedule = e :: rest → admissible s.params e = false →
    ∃ r, step s = .refused r

/-! ### 43_framebuffer_commands.md section 8, as an invariant of the step -/

/-- R170, R25: the equation "FRAME_COUNT is the number of RENDER events emitted, modulo `2^CNT_W`" is kept by every step
that is not a power cycle, from every state that meets it, reached or not. -/
def Obligations.EveryStepKeepsTheFrameCountEquation : Prop :=
  ∀ s t : State, s.schedule.head? ≠ some .powerCycle →
    s.frameCount = (s.trace.countP isRender) % 2 ^ s.params.cntW → step s = .next t →
    t.params = s.params ∧ t.frameCount = (t.trace.countP isRender) % 2 ^ t.params.cntW
end

