-- ==== Sys2Proof/Laws/State.lean ====
section
/-! SUPPORT. One lemma per field per update, so that no later proof unfolds a record update. A field that an update
computes by cases has its lemma in Laws/Operations.lean. -/

namespace Sys2Proof.Machine

/-! ### `putFb` -/

@[simp] theorem putFb_params (fb : List (Nat × Colour)) (s : State) : (putFb fb s).params = s.params := rfl
@[simp] theorem putFb_mem (fb : List (Nat × Colour)) (s : State) : (putFb fb s).mem = ⟨s.mem.rx, fb⟩ := rfl
@[simp] theorem putFb_wp (fb : List (Nat × Colour)) (s : State) : (putFb fb s).wp = s.wp := rfl
@[simp] theorem putFb_armed (fb : List (Nat × Colour)) (s : State) : (putFb fb s).armed = s.armed := rfl
@[simp] theorem putFb_rxcnt (fb : List (Nat × Colour)) (s : State) : (putFb fb s).rxcnt = s.rxcnt := rfl
@[simp] theorem putFb_rxrdy (fb : List (Nat × Colour)) (s : State) : (putFb fb s).rxrdy = s.rxrdy := rfl
@[simp] theorem putFb_cfgStrips (fb : List (Nat × Colour)) (s : State) : (putFb fb s).cfgStrips = s.cfgStrips := rfl
@[simp] theorem putFb_cfgLen (fb : List (Nat × Colour)) (s : State) : (putFb fb s).cfgLen = s.cfgLen := rfl
@[simp] theorem putFb_bright (fb : List (Nat × Colour)) (s : State) : (putFb fb s).bright = s.bright := rfl
@[simp] theorem putFb_debug (fb : List (Nat × Colour)) (s : State) : (putFb fb s).debug = s.debug := rfl
@[simp] theorem putFb_status (fb : List (Nat × Colour)) (s : State) : (putFb fb s).status = s.status := rfl
@[simp] theorem putFb_txnCount (fb : List (Nat × Colour)) (s : State) : (putFb fb s).txnCount = s.txnCount := rfl
@[simp] theorem putFb_frameCount (fb : List (Nat × Colour)) (s : State) : (putFb fb s).frameCount = s.frameCount := rfl
@[simp] theorem putFb_malformedCount (fb : List (Nat × Colour)) (s : State) : (putFb fb s).malformedCount = s.malformedCount := rfl
@[simp] theorem putFb_zpayCount (fb : List (Nat × Colour)) (s : State) : (putFb fb s).zpayCount = s.zpayCount := rfl
@[simp] theorem putFb_lastRenderDur (fb : List (Nat × Colour)) (s : State) : (putFb fb s).lastRenderDur = s.lastRenderDur := rfl
@[simp] theorem putFb_schedule (fb : List (Nat × Colour)) (s : State) : (putFb fb s).schedule = s.schedule := rfl
@[simp] theorem putFb_trace (fb : List (Nat × Colour)) (s : State) : (putFb fb s).trace = s.trace := rfl
@[simp] theorem putFb_draws (fb : List (Nat × Colour)) (s : State) : (putFb fb s).draws = s.draws := rfl

/-! ### `putRx` -/

@[simp] theorem putRx_params (rx : List Host.Cell) (s : State) : (putRx rx s).params = s.params := rfl
@[simp] theorem putRx_mem (rx : List Host.Cell) (s : State) : (putRx rx s).mem = ⟨rx, s.mem.fb⟩ := rfl
@[simp] theorem putRx_wp (rx : List Host.Cell) (s : State) : (putRx rx s).wp = s.wp := rfl
@[simp] theorem putRx_armed (rx : List Host.Cell) (s : State) : (putRx rx s).armed = s.armed := rfl
@[simp] theorem putRx_rxcnt (rx : List Host.Cell) (s : State) : (putRx rx s).rxcnt = s.rxcnt := rfl
@[simp] theorem putRx_rxrdy (rx : List Host.Cell) (s : State) : (putRx rx s).rxrdy = s.rxrdy := rfl
@[simp] theorem putRx_cfgStrips (rx : List Host.Cell) (s : State) : (putRx rx s).cfgStrips = s.cfgStrips := rfl
@[simp] theorem putRx_cfgLen (rx : List Host.Cell) (s : State) : (putRx rx s).cfgLen = s.cfgLen := rfl
@[simp] theorem putRx_bright (rx : List Host.Cell) (s : State) : (putRx rx s).bright = s.bright := rfl
@[simp] theorem putRx_debug (rx : List Host.Cell) (s : State) : (putRx rx s).debug = s.debug := rfl
@[simp] theorem putRx_status (rx : List Host.Cell) (s : State) : (putRx rx s).status = s.status := rfl
@[simp] theorem putRx_txnCount (rx : List Host.Cell) (s : State) : (putRx rx s).txnCount = s.txnCount := rfl
@[simp] theorem putRx_frameCount (rx : List Host.Cell) (s : State) : (putRx rx s).frameCount = s.frameCount := rfl
@[simp] theorem putRx_malformedCount (rx : List Host.Cell) (s : State) : (putRx rx s).malformedCount = s.malformedCount := rfl
@[simp] theorem putRx_zpayCount (rx : List Host.Cell) (s : State) : (putRx rx s).zpayCount = s.zpayCount := rfl
@[simp] theorem putRx_lastRenderDur (rx : List Host.Cell) (s : State) : (putRx rx s).lastRenderDur = s.lastRenderDur := rfl
@[simp] theorem putRx_schedule (rx : List Host.Cell) (s : State) : (putRx rx s).schedule = s.schedule := rfl
@[simp] theorem putRx_trace (rx : List Host.Cell) (s : State) : (putRx rx s).trace = s.trace := rfl
@[simp] theorem putRx_draws (rx : List Host.Cell) (s : State) : (putRx rx s).draws = s.draws := rfl

/-! ### `emit` -/

@[simp] theorem emit_params (o : Output) (s : State) : (emit o s).params = s.params := rfl
@[simp] theorem emit_mem (o : Output) (s : State) : (emit o s).mem = s.mem := rfl
@[simp] theorem emit_wp (o : Output) (s : State) : (emit o s).wp = s.wp := rfl
@[simp] theorem emit_armed (o : Output) (s : State) : (emit o s).armed = s.armed := rfl
@[simp] theorem emit_rxcnt (o : Output) (s : State) : (emit o s).rxcnt = s.rxcnt := rfl
@[simp] theorem emit_rxrdy (o : Output) (s : State) : (emit o s).rxrdy = s.rxrdy := rfl
@[simp] theorem emit_cfgStrips (o : Output) (s : State) : (emit o s).cfgStrips = s.cfgStrips := rfl
@[simp] theorem emit_cfgLen (o : Output) (s : State) : (emit o s).cfgLen = s.cfgLen := rfl
@[simp] theorem emit_bright (o : Output) (s : State) : (emit o s).bright = s.bright := rfl
@[simp] theorem emit_debug (o : Output) (s : State) : (emit o s).debug = s.debug := rfl
@[simp] theorem emit_status (o : Output) (s : State) : (emit o s).status = s.status := rfl
@[simp] theorem emit_txnCount (o : Output) (s : State) : (emit o s).txnCount = s.txnCount := rfl
@[simp] theorem emit_frameCount (o : Output) (s : State) : (emit o s).frameCount = s.frameCount := rfl
@[simp] theorem emit_malformedCount (o : Output) (s : State) : (emit o s).malformedCount = s.malformedCount := rfl
@[simp] theorem emit_zpayCount (o : Output) (s : State) : (emit o s).zpayCount = s.zpayCount := rfl
@[simp] theorem emit_lastRenderDur (o : Output) (s : State) : (emit o s).lastRenderDur = s.lastRenderDur := rfl
@[simp] theorem emit_schedule (o : Output) (s : State) : (emit o s).schedule = s.schedule := rfl
@[simp] theorem emit_trace (o : Output) (s : State) : (emit o s).trace = s.trace ++ [o] := rfl
@[simp] theorem emit_draws (o : Output) (s : State) : (emit o s).draws = s.draws := rfl

/-! ### `putConfig` -/

@[simp] theorem putConfig_params (strips : Byte) (len : Half) (s : State) : (putConfig strips len s).params = s.params := rfl
@[simp] theorem putConfig_mem (strips : Byte) (len : Half) (s : State) : (putConfig strips len s).mem = s.mem := rfl
@[simp] theorem putConfig_wp (strips : Byte) (len : Half) (s : State) : (putConfig strips len s).wp = s.wp := rfl
@[simp] theorem putConfig_armed (strips : Byte) (len : Half) (s : State) : (putConfig strips len s).armed = s.armed := rfl
@[simp] theorem putConfig_rxcnt (strips : Byte) (len : Half) (s : State) : (putConfig strips len s).rxcnt = s.rxcnt := rfl
@[simp] theorem putConfig_rxrdy (strips : Byte) (len : Half) (s : State) : (putConfig strips len s).rxrdy = s.rxrdy := rfl
@[simp] theorem putConfig_cfgStrips (strips : Byte) (len : Half) (s : State) : (putConfig strips len s).cfgStrips = strips := rfl
@[simp] theorem putConfig_cfgLen (strips : Byte) (len : Half) (s : State) : (putConfig strips len s).cfgLen = len := rfl
@[simp] theorem putConfig_bright (strips : Byte) (len : Half) (s : State) : (putConfig strips len s).bright = s.bright := rfl
@[simp] theorem putConfig_debug (strips : Byte) (len : Half) (s : State) : (putConfig strips len s).debug = s.debug := rfl
@[simp] theorem putConfig_status (strips : Byte) (len : Half) (s : State) : (putConfig strips len s).status = s.status := rfl
@[simp] theorem putConfig_txnCount (strips : Byte) (len : Half) (s : State) : (putConfig strips len s).txnCount = s.txnCount := rfl
@[simp] theorem putConfig_frameCount (strips : Byte) (len : Half) (s : State) : (putConfig strips len s).frameCount = s.frameCount := rfl
@[simp] theorem putConfig_malformedCount (strips : Byte) (len : Half) (s : State) : (putConfig strips len s).malformedCount = s.malformedCount := rfl
@[simp] theorem putConfig_zpayCount (strips : Byte) (len : Half) (s : State) : (putConfig strips len s).zpayCount = s.zpayCount := rfl
@[simp] theorem putConfig_lastRenderDur (strips : Byte) (len : Half) (s : State) : (putConfig strips len s).lastRenderDur = s.lastRenderDur := rfl
@[simp] theorem putConfig_schedule (strips : Byte) (len : Half) (s : State) : (putConfig strips len s).schedule = s.schedule := rfl
@[simp] theorem putConfig_trace (strips : Byte) (len : Half) (s : State) : (putConfig strips len s).trace = s.trace := rfl
@[simp] theorem putConfig_draws (strips : Byte) (len : Half) (s : State) : (putConfig strips len s).draws = s.draws := rfl

/-! ### `blankUnaddressed` -/

@[simp] theorem blankUnaddressed_params (strips len : Nat) (s : State) : (blankUnaddressed strips len s).params = s.params := rfl
@[simp] theorem blankUnaddressed_mem (strips len : Nat) (s : State) : (blankUnaddressed strips len s).mem = ⟨s.mem.rx, fbWriteAll s.mem.fb (blankWrites s.params strips len)⟩ := rfl
@[simp] theorem blankUnaddressed_wp (strips len : Nat) (s : State) : (blankUnaddressed strips len s).wp = s.wp := rfl
@[simp] theorem blankUnaddressed_armed (strips len : Nat) (s : State) : (blankUnaddressed strips len s).armed = s.armed := rfl
@[simp] theorem blankUnaddressed_rxcnt (strips len : Nat) (s : State) : (blankUnaddressed strips len s).rxcnt = s.rxcnt := rfl
@[simp] theorem blankUnaddressed_rxrdy (strips len : Nat) (s : State) : (blankUnaddressed strips len s).rxrdy = s.rxrdy := rfl
@[simp] theorem blankUnaddressed_cfgStrips (strips len : Nat) (s : State) : (blankUnaddressed strips len s).cfgStrips = s.cfgStrips := rfl
@[simp] theorem blankUnaddressed_cfgLen (strips len : Nat) (s : State) : (blankUnaddressed strips len s).cfgLen = s.cfgLen := rfl
@[simp] theorem blankUnaddressed_bright (strips len : Nat) (s : State) : (blankUnaddressed strips len s).bright = s.bright := rfl
@[simp] theorem blankUnaddressed_debug (strips len : Nat) (s : State) : (blankUnaddressed strips len s).debug = s.debug := rfl
@[simp] theorem blankUnaddressed_status (strips len : Nat) (s : State) : (blankUnaddressed strips len s).status = s.status := rfl
@[simp] theorem blankUnaddressed_txnCount (strips len : Nat) (s : State) : (blankUnaddressed strips len s).txnCount = s.txnCount := rfl
@[simp] theorem blankUnaddressed_frameCount (strips len : Nat) (s : State) : (blankUnaddressed strips len s).frameCount = s.frameCount := rfl
@[simp] theorem blankUnaddressed_malformedCount (strips len : Nat) (s : State) : (blankUnaddressed strips len s).malformedCount = s.malformedCount := rfl
@[simp] theorem blankUnaddressed_zpayCount (strips len : Nat) (s : State) : (blankUnaddressed strips len s).zpayCount = s.zpayCount := rfl
@[simp] theorem blankUnaddressed_lastRenderDur (strips len : Nat) (s : State) : (blankUnaddressed strips len s).lastRenderDur = s.lastRenderDur := rfl
@[simp] theorem blankUnaddressed_schedule (strips len : Nat) (s : State) : (blankUnaddressed strips len s).schedule = s.schedule := rfl
@[simp] theorem blankUnaddressed_trace (strips len : Nat) (s : State) : (blankUnaddressed strips len s).trace = s.trace := rfl
@[simp] theorem blankUnaddressed_draws (strips len : Nat) (s : State) : (blankUnaddressed strips len s).draws = s.draws := rfl

/-! ### `doRender` -/

@[simp] theorem doRender_params (s : State) : (doRender s).params = s.params := rfl
@[simp] theorem doRender_mem (s : State) : (doRender s).mem = s.mem := rfl
@[simp] theorem doRender_wp (s : State) : (doRender s).wp = s.wp := rfl
@[simp] theorem doRender_armed (s : State) : (doRender s).armed = s.armed := rfl
@[simp] theorem doRender_rxcnt (s : State) : (doRender s).rxcnt = s.rxcnt := rfl
@[simp] theorem doRender_rxrdy (s : State) : (doRender s).rxrdy = s.rxrdy := rfl
@[simp] theorem doRender_cfgStrips (s : State) : (doRender s).cfgStrips = s.cfgStrips := rfl
@[simp] theorem doRender_cfgLen (s : State) : (doRender s).cfgLen = s.cfgLen := rfl
@[simp] theorem doRender_bright (s : State) : (doRender s).bright = s.bright := rfl
@[simp] theorem doRender_debug (s : State) : (doRender s).debug = s.debug := rfl
@[simp] theorem doRender_status (s : State) : (doRender s).status = s.status := rfl
@[simp] theorem doRender_txnCount (s : State) : (doRender s).txnCount = s.txnCount := rfl
@[simp] theorem doRender_frameCount (s : State) : (doRender s).frameCount = bumpCounter s.params.cntW s.frameCount := rfl
@[simp] theorem doRender_malformedCount (s : State) : (doRender s).malformedCount = s.malformedCount := rfl
@[simp] theorem doRender_zpayCount (s : State) : (doRender s).zpayCount = s.zpayCount := rfl
@[simp] theorem doRender_lastRenderDur (s : State) : (doRender s).lastRenderDur = (Config.renderDuration s.params.durW s.draws).toNat := rfl
@[simp] theorem doRender_schedule (s : State) : (doRender s).schedule = s.schedule := rfl
@[simp] theorem doRender_trace (s : State) : (doRender s).trace = s.trace ++ [.render (fbPixels s) s.bright] := rfl
@[simp] theorem doRender_draws (s : State) : (doRender s).draws = s.draws + 1 := rfl

/-! ### `clearReady` -/

@[simp] theorem clearReady_params (s : State) : (clearReady s).params = s.params := rfl
@[simp] theorem clearReady_mem (s : State) : (clearReady s).mem = s.mem := rfl
@[simp] theorem clearReady_wp (s : State) : (clearReady s).wp = s.wp := rfl
@[simp] theorem clearReady_armed (s : State) : (clearReady s).armed = s.armed := rfl
@[simp] theorem clearReady_rxcnt (s : State) : (clearReady s).rxcnt = s.rxcnt := rfl
@[simp] theorem clearReady_rxrdy (s : State) : (clearReady s).rxrdy = false := rfl
@[simp] theorem clearReady_cfgStrips (s : State) : (clearReady s).cfgStrips = s.cfgStrips := rfl
@[simp] theorem clearReady_cfgLen (s : State) : (clearReady s).cfgLen = s.cfgLen := rfl
@[simp] theorem clearReady_bright (s : State) : (clearReady s).bright = s.bright := rfl
@[simp] theorem clearReady_debug (s : State) : (clearReady s).debug = s.debug := rfl
@[simp] theorem clearReady_status (s : State) : (clearReady s).status = s.status := rfl
@[simp] theorem clearReady_txnCount (s : State) : (clearReady s).txnCount = s.txnCount := rfl
@[simp] theorem clearReady_frameCount (s : State) : (clearReady s).frameCount = s.frameCount := rfl
@[simp] theorem clearReady_malformedCount (s : State) : (clearReady s).malformedCount = s.malformedCount := rfl
@[simp] theorem clearReady_zpayCount (s : State) : (clearReady s).zpayCount = s.zpayCount := rfl
@[simp] theorem clearReady_lastRenderDur (s : State) : (clearReady s).lastRenderDur = s.lastRenderDur := rfl
@[simp] theorem clearReady_schedule (s : State) : (clearReady s).schedule = s.schedule := rfl
@[simp] theorem clearReady_trace (s : State) : (clearReady s).trace = s.trace := rfl
@[simp] theorem clearReady_draws (s : State) : (clearReady s).draws = s.draws := rfl

/-! ### `raiseOutcome` -/

@[simp] theorem raiseOutcome_params (o : FrameOutcome) (s : State) : (raiseOutcome o s).params = s.params := by cases o <;> rfl
@[simp] theorem raiseOutcome_mem (o : FrameOutcome) (s : State) : (raiseOutcome o s).mem = s.mem := by cases o <;> rfl
@[simp] theorem raiseOutcome_wp (o : FrameOutcome) (s : State) : (raiseOutcome o s).wp = s.wp := by cases o <;> rfl
@[simp] theorem raiseOutcome_armed (o : FrameOutcome) (s : State) : (raiseOutcome o s).armed = s.armed := by cases o <;> rfl
@[simp] theorem raiseOutcome_rxcnt (o : FrameOutcome) (s : State) : (raiseOutcome o s).rxcnt = s.rxcnt := by cases o <;> rfl
@[simp] theorem raiseOutcome_rxrdy (o : FrameOutcome) (s : State) : (raiseOutcome o s).rxrdy = s.rxrdy := by cases o <;> rfl
@[simp] theorem raiseOutcome_cfgStrips (o : FrameOutcome) (s : State) : (raiseOutcome o s).cfgStrips = s.cfgStrips := by cases o <;> rfl
@[simp] theorem raiseOutcome_cfgLen (o : FrameOutcome) (s : State) : (raiseOutcome o s).cfgLen = s.cfgLen := by cases o <;> rfl
@[simp] theorem raiseOutcome_bright (o : FrameOutcome) (s : State) : (raiseOutcome o s).bright = s.bright := by cases o <;> rfl
@[simp] theorem raiseOutcome_debug (o : FrameOutcome) (s : State) : (raiseOutcome o s).debug = s.debug := by cases o <;> rfl
@[simp] theorem raiseOutcome_status (o : FrameOutcome) (s : State) : (raiseOutcome o s).status = s.status := by cases o <;> rfl
@[simp] theorem raiseOutcome_txnCount (o : FrameOutcome) (s : State) : (raiseOutcome o s).txnCount = s.txnCount := by cases o <;> rfl
@[simp] theorem raiseOutcome_frameCount (o : FrameOutcome) (s : State) : (raiseOutcome o s).frameCount = s.frameCount := by cases o <;> rfl
@[simp] theorem raiseOutcome_zpayCount (o : FrameOutcome) (s : State) : (raiseOutcome o s).zpayCount = s.zpayCount := by cases o <;> rfl
@[simp] theorem raiseOutcome_lastRenderDur (o : FrameOutcome) (s : State) : (raiseOutcome o s).lastRenderDur = s.lastRenderDur := by cases o <;> rfl
@[simp] theorem raiseOutcome_schedule (o : FrameOutcome) (s : State) : (raiseOutcome o s).schedule = s.schedule := by cases o <;> rfl
@[simp] theorem raiseOutcome_draws (o : FrameOutcome) (s : State) : (raiseOutcome o s).draws = s.draws := by cases o <;> rfl

/-! ### `precheck` -/

@[simp] theorem precheck_params (f : List Byte) (s : State) : (precheck f s).params = s.params := by unfold precheck; split <;> rfl
@[simp] theorem precheck_mem (f : List Byte) (s : State) : (precheck f s).mem = s.mem := by unfold precheck; split <;> rfl
@[simp] theorem precheck_wp (f : List Byte) (s : State) : (precheck f s).wp = s.wp := by unfold precheck; split <;> rfl
@[simp] theorem precheck_armed (f : List Byte) (s : State) : (precheck f s).armed = s.armed := by unfold precheck; split <;> rfl
@[simp] theorem precheck_rxcnt (f : List Byte) (s : State) : (precheck f s).rxcnt = s.rxcnt := by unfold precheck; split <;> rfl
@[simp] theorem precheck_rxrdy (f : List Byte) (s : State) : (precheck f s).rxrdy = s.rxrdy := by unfold precheck; split <;> rfl
@[simp] theorem precheck_cfgStrips (f : List Byte) (s : State) : (precheck f s).cfgStrips = s.cfgStrips := by unfold precheck; split <;> rfl
@[simp] theorem precheck_cfgLen (f : List Byte) (s : State) : (precheck f s).cfgLen = s.cfgLen := by unfold precheck; split <;> rfl
@[simp] theorem precheck_bright (f : List Byte) (s : State) : (precheck f s).bright = s.bright := by unfold precheck; split <;> rfl
@[simp] theorem precheck_debug (f : List Byte) (s : State) : (precheck f s).debug = s.debug := by unfold precheck; split <;> rfl
@[simp] theorem precheck_status (f : List Byte) (s : State) : (precheck f s).status = s.status := by unfold precheck; split <;> rfl
@[simp] theorem precheck_txnCount (f : List Byte) (s : State) : (precheck f s).txnCount = s.txnCount := by unfold precheck; split <;> rfl
@[simp] theorem precheck_frameCount (f : List Byte) (s : State) : (precheck f s).frameCount = s.frameCount := by unfold precheck; split <;> rfl
@[simp] theorem precheck_malformedCount (f : List Byte) (s : State) : (precheck f s).malformedCount = s.malformedCount := by unfold precheck; split <;> rfl
@[simp] theorem precheck_lastRenderDur (f : List Byte) (s : State) : (precheck f s).lastRenderDur = s.lastRenderDur := by unfold precheck; split <;> rfl
@[simp] theorem precheck_schedule (f : List Byte) (s : State) : (precheck f s).schedule = s.schedule := by unfold precheck; split <;> rfl
@[simp] theorem precheck_draws (f : List Byte) (s : State) : (precheck f s).draws = s.draws := by unfold precheck; split <;> rfl

/-! ### `onSelAssert` -/

@[simp] theorem onSelAssert_params (s : State) : (onSelAssert s).params = s.params := by unfold onSelAssert; split <;> rfl
@[simp] theorem onSelAssert_mem (s : State) : (onSelAssert s).mem = s.mem := by unfold onSelAssert; split <;> rfl
@[simp] theorem onSelAssert_rxcnt (s : State) : (onSelAssert s).rxcnt = s.rxcnt := by unfold onSelAssert; split <;> rfl
@[simp] theorem onSelAssert_rxrdy (s : State) : (onSelAssert s).rxrdy = s.rxrdy := by unfold onSelAssert; split <;> rfl
@[simp] theorem onSelAssert_cfgStrips (s : State) : (onSelAssert s).cfgStrips = s.cfgStrips := by unfold onSelAssert; split <;> rfl
@[simp] theorem onSelAssert_cfgLen (s : State) : (onSelAssert s).cfgLen = s.cfgLen := by unfold onSelAssert; split <;> rfl
@[simp] theorem onSelAssert_bright (s : State) : (onSelAssert s).bright = s.bright := by unfold onSelAssert; split <;> rfl
@[simp] theorem onSelAssert_debug (s : State) : (onSelAssert s).debug = s.debug := by unfold onSelAssert; split <;> rfl
@[simp] theorem onSelAssert_status (s : State) : (onSelAssert s).status = s.status := by unfold onSelAssert; split <;> rfl
@[simp] theorem onSelAssert_txnCount (s : State) : (onSelAssert s).txnCount = s.txnCount := by unfold onSelAssert; split <;> rfl
@[simp] theorem onSelAssert_frameCount (s : State) : (onSelAssert s).frameCount = s.frameCount := by unfold onSelAssert; split <;> rfl
@[simp] theorem onSelAssert_malformedCount (s : State) : (onSelAssert s).malformedCount = s.malformedCount := by unfold onSelAssert; split <;> rfl
@[simp] theorem onSelAssert_zpayCount (s : State) : (onSelAssert s).zpayCount = s.zpayCount := by unfold onSelAssert; split <;> rfl
@[simp] theorem onSelAssert_lastRenderDur (s : State) : (onSelAssert s).lastRenderDur = s.lastRenderDur := by unfold onSelAssert; split <;> rfl
@[simp] theorem onSelAssert_schedule (s : State) : (onSelAssert s).schedule = s.schedule := by unfold onSelAssert; split <;> rfl
@[simp] theorem onSelAssert_trace (s : State) : (onSelAssert s).trace = s.trace := by unfold onSelAssert; split <;> rfl
@[simp] theorem onSelAssert_draws (s : State) : (onSelAssert s).draws = s.draws := by unfold onSelAssert; split <;> rfl

/-! ### `onByte` -/

@[simp] theorem onByte_params (b : Byte) (s : State) : (onByte b s).params = s.params := by unfold onByte; split <;> rfl
@[simp] theorem onByte_armed (b : Byte) (s : State) : (onByte b s).armed = s.armed := by unfold onByte; split <;> rfl
@[simp] theorem onByte_rxcnt (b : Byte) (s : State) : (onByte b s).rxcnt = s.rxcnt := by unfold onByte; split <;> rfl
@[simp] theorem onByte_rxrdy (b : Byte) (s : State) : (onByte b s).rxrdy = s.rxrdy := by unfold onByte; split <;> rfl
@[simp] theorem onByte_cfgStrips (b : Byte) (s : State) : (onByte b s).cfgStrips = s.cfgStrips := by unfold onByte; split <;> rfl
@[simp] theorem onByte_cfgLen (b : Byte) (s : State) : (onByte b s).cfgLen = s.cfgLen := by unfold onByte; split <;> rfl
@[simp] theorem onByte_bright (b : Byte) (s : State) : (onByte b s).bright = s.bright := by unfold onByte; split <;> rfl
@[simp] theorem onByte_debug (b : Byte) (s : State) : (onByte b s).debug = s.debug := by unfold onByte; split <;> rfl
@[simp] theorem onByte_status (b : Byte) (s : State) : (onByte b s).status = s.status := by unfold onByte; split <;> rfl
@[simp] theorem onByte_txnCount (b : Byte) (s : State) : (onByte b s).txnCount = s.txnCount := by unfold onByte; split <;> rfl
@[simp] theorem onByte_frameCount (b : Byte) (s : State) : (onByte b s).frameCount = s.frameCount := by unfold onByte; split <;> rfl
@[simp] theorem onByte_malformedCount (b : Byte) (s : State) : (onByte b s).malformedCount = s.malformedCount := by unfold onByte; split <;> rfl
@[simp] theorem onByte_zpayCount (b : Byte) (s : State) : (onByte b s).zpayCount = s.zpayCount := by unfold onByte; split <;> rfl
@[simp] theorem onByte_lastRenderDur (b : Byte) (s : State) : (onByte b s).lastRenderDur = s.lastRenderDur := by unfold onByte; split <;> rfl
@[simp] theorem onByte_schedule (b : Byte) (s : State) : (onByte b s).schedule = s.schedule := by unfold onByte; split <;> rfl
@[simp] theorem onByte_trace (b : Byte) (s : State) : (onByte b s).trace = s.trace := by unfold onByte; split <;> rfl
@[simp] theorem onByte_draws (b : Byte) (s : State) : (onByte b s).draws = s.draws := by unfold onByte; split <;> rfl

/-! ### `onSelDeassert` -/

@[simp] theorem onSelDeassert_params (s : State) : (onSelDeassert s).params = s.params := by unfold onSelDeassert; split <;> rfl
@[simp] theorem onSelDeassert_mem (s : State) : (onSelDeassert s).mem = s.mem := by unfold onSelDeassert; split <;> rfl
@[simp] theorem onSelDeassert_wp (s : State) : (onSelDeassert s).wp = s.wp := by unfold onSelDeassert; split <;> rfl
@[simp] theorem onSelDeassert_cfgStrips (s : State) : (onSelDeassert s).cfgStrips = s.cfgStrips := by unfold onSelDeassert; split <;> rfl
@[simp] theorem onSelDeassert_cfgLen (s : State) : (onSelDeassert s).cfgLen = s.cfgLen := by unfold onSelDeassert; split <;> rfl
@[simp] theorem onSelDeassert_bright (s : State) : (onSelDeassert s).bright = s.bright := by unfold onSelDeassert; split <;> rfl
@[simp] theorem onSelDeassert_debug (s : State) : (onSelDeassert s).debug = s.debug := by unfold onSelDeassert; split <;> rfl
@[simp] theorem onSelDeassert_status (s : State) : (onSelDeassert s).status = s.status := by unfold onSelDeassert; split <;> rfl
@[simp] theorem onSelDeassert_frameCount (s : State) : (onSelDeassert s).frameCount = s.frameCount := by unfold onSelDeassert; split <;> rfl
@[simp] theorem onSelDeassert_malformedCount (s : State) : (onSelDeassert s).malformedCount = s.malformedCount := by unfold onSelDeassert; split <;> rfl
@[simp] theorem onSelDeassert_zpayCount (s : State) : (onSelDeassert s).zpayCount = s.zpayCount := by unfold onSelDeassert; split <;> rfl
@[simp] theorem onSelDeassert_lastRenderDur (s : State) : (onSelDeassert s).lastRenderDur = s.lastRenderDur := by unfold onSelDeassert; split <;> rfl
@[simp] theorem onSelDeassert_schedule (s : State) : (onSelDeassert s).schedule = s.schedule := by unfold onSelDeassert; split <;> rfl
@[simp] theorem onSelDeassert_trace (s : State) : (onSelDeassert s).trace = s.trace := by unfold onSelDeassert; split <;> rfl
@[simp] theorem onSelDeassert_draws (s : State) : (onSelDeassert s).draws = s.draws := by unfold onSelDeassert; split <;> rfl

/-! ### The reset state, and what a run shows -/

@[simp] theorem resetFor_params (p : Params) : (State.resetFor p).params = p := rfl
@[simp] theorem resetFor_mem (p : Params) : (State.resetFor p).mem = ⟨[], []⟩ := rfl
@[simp] theorem resetFor_cfgStrips (p : Params) : (State.resetFor p).cfgStrips = p.rstStrips := rfl
@[simp] theorem resetFor_cfgLen (p : Params) : (State.resetFor p).cfgLen = p.rstLen := rfl
@[simp] theorem powerOn_params (s : State) : (powerOn s).params = s.params := rfl
@[simp] theorem powerOn_schedule (s : State) : (powerOn s).schedule = s.schedule := rfl
@[simp] theorem powerOn_trace (s : State) : (powerOn s).trace = s.trace := rfl
@[simp] theorem powerOn_draws (s : State) : (powerOn s).draws = s.draws := rfl

end Sys2Proof.Machine
end

