-- ==== Sys2Proof/Laws/Memory.lean ====
section
/-! SUPPORT. The laws of the two memories: read after write, and the canonical form every operation keeps. -/

namespace Sys2Proof.Machine

section Cells
variable {α : Type}

theorem cellAt_putCell (m : List (Nat × α)) (a : Nat) (v : α) (b : Nat) :
    cellAt (putCell m a v) b = if b = a then some v else cellAt m b := by
  induction m with
  | nil => simp [putCell, cellAt]
  | cons e rest ih =>
    obtain ⟨c, w⟩ := e
    simp only [putCell]
    split
    · simp [cellAt]
    · split
      · subst_vars
        simp only [cellAt]
        split <;> rfl
      · simp only [cellAt, ih]
        split_ifs <;> first | rfl | omega

@[simp] theorem cellAt_putCell_self (m : List (Nat × α)) (a : Nat) (v : α) : cellAt (putCell m a v) a = some v := by
  simp [cellAt_putCell]

theorem cellAt_putCell_ne (m : List (Nat × α)) {a b : Nat} (v : α) (h : b ≠ a) :
    cellAt (putCell m a v) b = cellAt m b := by
  simp [cellAt_putCell, h]

theorem cellAt_dropCell (m : List (Nat × α)) (a b : Nat) :
    cellAt (dropCell m a) b = if b = a then none else cellAt m b := by
  induction m with
  | nil => simp [dropCell, cellAt]
  | cons e rest ih =>
    obtain ⟨c, w⟩ := e
    unfold dropCell at ih ⊢
    by_cases hc : c = a
    · subst hc
      simp only [ne_eq, not_true_eq_false, decide_false, Bool.false_eq_true, not_false_eq_true,
        List.filter_cons_of_neg, ih, cellAt]
      split_ifs <;> rfl
    · simp only [ne_eq, hc, not_false_eq_true, decide_true, List.filter_cons_of_pos, cellAt, ih]
      split_ifs <;> first | rfl | omega

theorem mem_putCell {m : List (Nat × α)} {a : Nat} {v : α} {e : Nat × α} (h : e ∈ putCell m a v) :
    e = (a, v) ∨ e ∈ m := by
  induction m with
  | nil => simpa [putCell] using h
  | cons x rest ih =>
    obtain ⟨c, w⟩ := x
    simp only [putCell] at h
    split at h
    · simpa using h
    · split at h
      · rcases List.mem_cons.mp h with h | h
        · exact .inl h
        · exact .inr (List.mem_cons_of_mem _ h)
      · rcases List.mem_cons.mp h with h | h
        · exact .inr (h ▸ List.mem_cons_self)
        · exact (ih h).imp id (List.mem_cons_of_mem _)

theorem putCell_rising {m : List (Nat × α)} (a : Nat) (v : α) (h : rising m) : rising (putCell m a v) := by
  induction m with
  | nil => simp [putCell]
  | cons x rest ih =>
    obtain ⟨c, w⟩ := x
    obtain ⟨hx, hr⟩ := List.pairwise_cons.mp h
    simp only [putCell]
    split
    · rename_i hac
      refine List.pairwise_cons.mpr ⟨fun e he => ?_, h⟩
      rcases List.mem_cons.mp he with rfl | he
      · exact hac
      · exact lt_trans hac (hx e he)
    · split
      · subst_vars
        exact List.pairwise_cons.mpr ⟨hx, hr⟩
      · refine List.pairwise_cons.mpr ⟨fun e he => ?_, ih hr⟩
        rcases mem_putCell he with rfl | he
        · show c < a
          omega
        · exact hx e he

theorem dropCell_rising {m : List (Nat × α)} (a : Nat) (h : rising m) : rising (dropCell m a) :=
  List.Pairwise.filter _ h

theorem mem_dropCell {m : List (Nat × α)} {a : Nat} {e : Nat × α} (h : e ∈ dropCell m a) : e ∈ m :=
  (List.mem_filter.mp h).1

/-- In rising order, what is listed is what is read. -/
theorem cellAt_of_mem {m : List (Nat × α)} (h : rising m) {e : Nat × α} (he : e ∈ m) : cellAt m e.1 = some e.2 := by
  induction m with
  | nil => simp at he
  | cons x rest ih =>
    obtain ⟨hx, hr⟩ := List.pairwise_cons.mp h
    rcases List.mem_cons.mp he with rfl | he
    · simp [cellAt]
    · have := hx e he
      have hne : e.1 ≠ x.1 := by omega
      simp [cellAt, hne, ih hr he]

theorem mem_of_cellAt {m : List (Nat × α)} {a : Nat} {v : α} (h : cellAt m a = some v) : (a, v) ∈ m := by
  induction m with
  | nil => simp [cellAt] at h
  | cons x rest ih =>
    obtain ⟨c, w⟩ := x
    simp only [cellAt] at h
    split at h
    · simp_all
    · exact List.mem_cons_of_mem _ (ih h)

end Cells

/-! ### The frame buffer -/

theorem fbRead_fbWrite (fb : List (Nat × Colour)) (p : Nat) (c : Colour) (q : Nat) :
    fbRead (fbWrite fb p c) q = if q = p then c else fbRead fb q := by
  unfold fbRead fbWrite
  split
  · rename_i hc
    rw [cellAt_dropCell]
    split <;> simp [hc]
  · rw [cellAt_putCell]
    split <;> simp

@[simp] theorem fbRead_fbWrite_self (fb : List (Nat × Colour)) (p : Nat) (c : Colour) : fbRead (fbWrite fb p c) p = c := by
  simp [fbRead_fbWrite]

theorem fbRead_fbWrite_ne (fb : List (Nat × Colour)) {p q : Nat} (c : Colour) (h : q ≠ p) :
    fbRead (fbWrite fb p c) q = fbRead fb q := by
  simp [fbRead_fbWrite, h]

@[simp] theorem fbWriteAll_nil (fb : List (Nat × Colour)) : fbWriteAll fb [] = fb := rfl

@[simp] theorem fbWriteAll_cons (fb : List (Nat × Colour)) (w : Nat × Colour) (ws : List (Nat × Colour)) :
    fbWriteAll fb (w :: ws) = fbWriteAll (fbWrite fb w.1 w.2) ws := rfl

theorem fbWriteAll_append (fb : List (Nat × Colour)) (ws vs : List (Nat × Colour)) :
    fbWriteAll fb (ws ++ vs) = fbWriteAll (fbWriteAll fb ws) vs := by
  simp [fbWriteAll]

/-- A slot none of the writes names keeps its colour. -/
theorem fbRead_fbWriteAll_of_not_mem {ws : List (Nat × Colour)} {q : Nat} (h : ∀ w ∈ ws, w.1 ≠ q)
    (fb : List (Nat × Colour)) : fbRead (fbWriteAll fb ws) q = fbRead fb q := by
  induction ws generalizing fb with
  | nil => rfl
  | cons w ws ih =>
    rw [fbWriteAll_cons, ih fun v hv => h v (List.mem_cons_of_mem _ hv)]
    exact fbRead_fbWrite_ne _ _ fun e => h w List.mem_cons_self e.symm

/-- A slot that some write names, all of whose writes carry one colour, gets that colour. -/
theorem fbRead_fbWriteAll_of_mem {ws : List (Nat × Colour)} {q : Nat} {c : Colour}
    (hmem : (q, c) ∈ ws) (hall : ∀ w ∈ ws, w.1 = q → w.2 = c) (fb : List (Nat × Colour)) :
    fbRead (fbWriteAll fb ws) q = c := by
  induction ws generalizing fb with
  | nil => simp at hmem
  | cons w ws ih =>
    rw [fbWriteAll_cons]
    by_cases hlater : ∃ v ∈ ws, v.1 = q
    · obtain ⟨v, hv, hq⟩ := hlater
      have hvc := hall v (List.mem_cons_of_mem _ hv) hq
      refine ih ?_ (fun u hu => hall u (List.mem_cons_of_mem _ hu)) _
      rw [← hq, ← hvc]
      exact hv
    · push Not at hlater
      rw [fbRead_fbWriteAll_of_not_mem hlater]
      rcases List.mem_cons.mp hmem with h | h
      · subst h
        simp
      · exact absurd rfl (hlater _ h)

theorem mem_fbWrite {fb : List (Nat × Colour)} {p : Nat} {c : Colour} {e : Nat × Colour} (h : e ∈ fbWrite fb p c) :
    (e = (p, c) ∧ c ≠ Colour.idle) ∨ e ∈ fb := by
  unfold fbWrite at h
  split at h
  · exact .inr (mem_dropCell h)
  · rename_i hc
    exact (mem_putCell h).imp (fun he => ⟨he, hc⟩) id

/-! ### The canonical form -/

/-- The canonical form of the frame buffer alone. -/
abbrev fbWf (n : Nat) (fb : List (Nat × Colour)) : Prop := rising fb ∧ ∀ e ∈ fb, e.1 < n ∧ e.2 ≠ Colour.idle

/-- The canonical form of the receive buffer alone. -/
abbrev rxWf (n : Nat) (rx : List Host.Cell) : Prop := rising rx ∧ ∀ e ∈ rx, e.1 < n

theorem fbWrite_wf {n : Nat} {fb : List (Nat × Colour)} {p : Nat} (c : Colour) (hp : p < n) (h : fbWf n fb) :
    fbWf n (fbWrite fb p c) := by
  constructor
  · unfold fbWrite
    split
    · exact dropCell_rising _ h.1
    · exact putCell_rising _ _ h.1
  · intro e he
    rcases mem_fbWrite he with ⟨rfl, hc⟩ | he
    · exact ⟨hp, hc⟩
    · exact h.2 e he

theorem fbWriteAll_wf {n : Nat} {ws : List (Nat × Colour)} (hws : ∀ w ∈ ws, w.1 < n) {fb : List (Nat × Colour)}
    (h : fbWf n fb) : fbWf n (fbWriteAll fb ws) := by
  induction ws generalizing fb with
  | nil => exact h
  | cons w ws ih =>
    exact ih (fun v hv => hws v (List.mem_cons_of_mem _ hv)) (fbWrite_wf _ (hws w List.mem_cons_self) h)

theorem rxPut_wf {n : Nat} {rx : List Host.Cell} {k : Nat} (b : Byte) (hk : k < n) (h : rxWf n rx) :
    rxWf n (putCell rx k b) := by
  refine ⟨putCell_rising _ _ h.1, fun e he => ?_⟩
  rcases mem_putCell he with rfl | he
  · exact hk
  · exact h.2 e he

theorem rxWriteAll_wf {n : Nat} {bytes : List Byte} {k : Nat} (hk : k + bytes.length ≤ n) {rx : List Host.Cell}
    (h : rxWf n rx) : rxWf n (rxWriteAll rx k bytes) := by
  induction bytes generalizing rx k with
  | nil => exact h
  | cons b rest ih =>
    simp only [List.length_cons] at hk
    exact ih (by omega) (rxPut_wf b (by omega) h)

/-- Every slot the blanking writes exists. -/
theorem blankWrites_lt {p : Params} {strips len : Nat} {w : Nat × Colour} (h : w ∈ blankWrites p strips len) :
    w.1 < p.nslots := by
  obtain ⟨q, hq, rfl⟩ := List.mem_map.mp h
  exact List.mem_range.mp (List.mem_filter.mp hq).1

/-- The blanking writes IDLE to exactly the unaddressed slots. -/
theorem mem_blankWrites {p : Params} {strips len : Nat} {w : Nat × Colour} :
    w ∈ blankWrites p strips len ↔
      w.1 < p.nslots ∧ addressable p.maxLeds strips len w.1 = false ∧ w.2 = Colour.idle := by
  obtain ⟨q, c⟩ := w
  simp only [blankWrites, List.mem_map, List.mem_filter, List.mem_range, Bool.not_eq_eq_eq_not, Bool.not_true,
    Prod.mk.injEq]
  constructor
  · rintro ⟨a, ⟨h1, h2⟩, rfl, rfl⟩
    exact ⟨h1, h2, rfl⟩
  · rintro ⟨h1, h2, h3⟩
    exact ⟨q, ⟨h1, h2⟩, rfl, h3.symm⟩

theorem putFb_wf {s : State} {ws : List (Nat × Colour)} (hws : ∀ w ∈ ws, w.1 < s.params.nslots)
    (h : s.mem.wf s.params) : (putFb (fbWriteAll s.mem.fb ws) s).mem.wf s.params :=
  ⟨h.1, fbWriteAll_wf hws h.2⟩

theorem blankUnaddressed_wf {s : State} (strips len : Nat) (h : s.mem.wf s.params) :
    (blankUnaddressed strips len s).mem.wf s.params :=
  ⟨h.1, fbWriteAll_wf (fun _ hw => blankWrites_lt hw) h.2⟩

theorem onByte_wf {s : State} (b : Byte) (h : s.mem.wf s.params) : (onByte b s).mem.wf s.params := by
  unfold onByte
  split
  · rename_i hc
    exact ⟨rxPut_wf b hc.2 h.1, h.2⟩
  · exact h

theorem placeFrame_wf {s : State} (f : List Byte) (h : s.mem.wf s.params) : (placeFrame f s).mem.wf s.params := by
  unfold placeFrame
  split
  · refine ⟨rxWriteAll_wf ?_ h.1, h.2⟩
    simp
  · exact h

theorem resetFor_wf (p : Params) : (State.resetFor p).mem.wf p := by simp [Memory.wf]

theorem reset_wf : State.reset.mem.wf Params.reference := resetFor_wf _

end Sys2Proof.Machine
end

