-- ==== Sys2Proof/Laws/Operations.lean ====
section
/-! SUPPORT. For each shared operation, one lemma that says once everything it can do. -/

namespace Sys2Proof.Machine

/-! ### Going on after a next state -/

@[simp] theorem onNext_next (t : State) (f : State → State) : onNext (.next t) f = .next (f t) := rfl

theorem onNext_eq_next {o : Host.Outcome State Fault Refusal} {f : State → State} {t : State} :
    onNext o f = .next t ↔ ∃ u, o = .next u ∧ t = f u := by
  cases o <;> simp [onNext, eq_comm]

theorem onNext_eq_fault {o : Host.Outcome State Fault Refusal} {f : State → State} {r : Fault} :
    onNext o f = .fault r ↔ o = .fault r := by
  cases o <;> simp [onNext]

theorem onNext_eq_refused {o : Host.Outcome State Fault Refusal} {f : State → State} {r : Refusal} :
    onNext o f = .refused r ↔ o = .refused r := by
  cases o <;> simp [onNext]

/-! ### Pixel writes -/

/-- Pixel writes complete exactly when every slot exists. -/
theorem storePixels_of_lt {ws : List (Nat × Colour)} {s : State} (h : ∀ w ∈ ws, w.1 < s.params.nslots) :
    storePixels ws s = .next (putFb (fbWriteAll s.mem.fb ws) s) := by
  have hnone : ws.find? (fun w => decide (s.params.nslots ≤ w.1)) = none := by
    refine List.find?_eq_none.mpr fun w hw => ?_
    have := h w hw
    simp only [decide_eq_true_eq]
    omega
  simp [storePixels, hnone]

/-- Everything a pixel write can do: write in order, all slots being there, or fault at a slot that is not. -/
theorem storePixels_cases (ws : List (Nat × Colour)) (s : State) :
    ((∀ w ∈ ws, w.1 < s.params.nslots) ∧ storePixels ws s = .next (putFb (fbWriteAll s.mem.fb ws) s)) ∨
    (∃ w ∈ ws, s.params.nslots ≤ w.1 ∧ storePixels ws s = .fault (.fbOutside w.1)) := by
  by_cases h : ∀ w ∈ ws, w.1 < s.params.nslots
  · exact .inl ⟨h, storePixels_of_lt h⟩
  · right
    cases hf : ws.find? (fun w => decide (s.params.nslots ≤ w.1)) with
    | none =>
      exact absurd (fun w hw => by simpa using List.find?_eq_none.mp hf w hw) h
    | some w =>
      exact ⟨w, List.mem_of_find?_eq_some hf, by simpa using List.find?_some hf, by simp [storePixels, hf]⟩

/-- The next state of a pixel write. -/
theorem storePixels_next {ws : List (Nat × Colour)} {s t : State} (h : storePixels ws s = .next t) :
    (∀ w ∈ ws, w.1 < s.params.nslots) ∧ t = putFb (fbWriteAll s.mem.fb ws) s := by
  rcases storePixels_cases ws s with ⟨hlt, heq⟩ | ⟨_, _, _, heq⟩ <;> rw [heq] at h
  · exact ⟨hlt, (Host.Outcome.next.inj h).symm⟩
  · cases h

/-- A pixel write is never refused. -/
theorem storePixels_not_refused (ws : List (Nat × Colour)) (s : State) (r : Refusal) :
    storePixels ws s ≠ .refused r := by
  rcases storePixels_cases ws s with ⟨_, heq⟩ | ⟨_, _, _, heq⟩ <;> simp [heq]

/-! ### The writes of the commands -/

/-- What one row of writes holds: colour `k` at `slot(start + k)`. -/
theorem mem_rowWrites {s : State} {start : Nat} {colours : List Colour} {w : Nat × Colour} :
    w ∈ rowWrites s start colours ↔
      ∃ k, ∃ h : k < colours.length, w = (slot s (start + k), colours[k]) := by
  simp only [rowWrites, List.mem_mapIdx]
  exact ⟨fun ⟨k, h, e⟩ => ⟨k, h, e.symm⟩, fun ⟨k, h, e⟩ => ⟨k, h, e.symm⟩⟩

theorem mem_clearWrites {s : State} {w : Nat × Colour} :
    w ∈ clearWrites s ↔ ∃ i < total s, w = (slot s i, Colour.idle) := by
  simp only [clearWrites, List.mem_map, List.mem_range]
  exact ⟨fun ⟨i, h, e⟩ => ⟨i, h, e.symm⟩, fun ⟨i, h, e⟩ => ⟨i, h, e.symm⟩⟩

/-! ### Outcomes and the pre-check -/

/-- The outputs an outcome appends (R200). -/
theorem raiseOutcome_trace (o : FrameOutcome) (s : State) :
    (raiseOutcome o s).trace = s.trace ++
      match o with
      | .malformed op n expected => [.log (.malformed op n expected)]
      | .configRejected strips len => [.log (.configRejected strips len)]
      | .unknownOpcode op n => [.log (.unknownOpcode op n)]
      | .empty => []
      | .ok => []
      | .outOfRange => [] := by
  cases o <;> simp [raiseOutcome, emit]

/-- The counter an outcome moves (R200). -/
theorem raiseOutcome_malformedCount (o : FrameOutcome) (s : State) :
    (raiseOutcome o s).malformedCount =
      match o with
      | .malformed _ _ _ => bumpCounter s.params.cntW s.malformedCount
      | .configRejected _ _ => bumpCounter s.params.cntW s.malformedCount
      | .unknownOpcode _ _ => s.malformedCount
      | .empty => s.malformedCount
      | .ok => s.malformedCount
      | .outOfRange => s.malformedCount := by
  cases o <;> rfl

/-- Everything the pre-check can do. -/
theorem precheck_cases (f : List Byte) (s : State) :
    (zeroPayload s.params.zpExempt f = false ∧ precheck f s = s) ∨
    (zeroPayload s.params.zpExempt f = true ∧
      precheck f s = emit (.log (.zeroPayload (f.headD 0) f.length))
        { s with zpayCount := bumpCounter s.params.cntW s.zpayCount }) := by
  unfold precheck
  cases h : zeroPayload s.params.zpExempt f <;> simp

theorem bumpCounter_lt (w n : Nat) : bumpCounter w n < 2 ^ w := Nat.mod_lt _ (by positivity)

/-- What BLANK_UNADDRESSED leaves at a slot: IDLE at the unaddressed ones of FB, everywhere else what stood there. -/
theorem fbRead_blankUnaddressed (strips len : Nat) (s : State) (q : Nat) :
    fbRead (blankUnaddressed strips len s).mem.fb q =
      if q < s.params.nslots ∧ addressable s.params.maxLeds strips len q = false then Colour.idle
      else fbRead s.mem.fb q := by
  show fbRead (fbWriteAll s.mem.fb (blankWrites s.params strips len)) q = _
  split
  · rename_i h
    exact fbRead_fbWriteAll_of_mem (mem_blankWrites.mpr ⟨h.1, h.2, rfl⟩)
      (fun w hw _ => (mem_blankWrites.mp hw).2.2) _
  · rename_i h
    refine fbRead_fbWriteAll_of_not_mem ?_ _
    rintro w hw rfl
    exact h ⟨(mem_blankWrites.mp hw).1, (mem_blankWrites.mp hw).2.1⟩

/-- A handoff shows at position `p` what the buffer holds at slot `p`. -/
theorem fbPixels_getElem? (s : State) {p : Nat} (h : p < s.params.nslots) :
    (fbPixels s)[p]? = some (fbRead s.mem.fb p) := by
  simp [fbPixels, h]

theorem fbPixels_length (s : State) : (fbPixels s).length = s.params.nslots := by simp [fbPixels]

/-- An outcome moves the malformed count and the log, and nothing else. -/
theorem raiseOutcome_eq (o : FrameOutcome) (s : State) :
    raiseOutcome o s =
      { s with malformedCount := (raiseOutcome o s).malformedCount, trace := (raiseOutcome o s).trace } := by
  cases o <;> rfl

/-! ### The frame of the engine -/

/-- A read of bytes that are all there gives them, in order. -/
theorem rxRead_of_written {rxMax : Nat} {rx : List Host.Cell} {n k : Nat}
    (h : ∀ j < n, k + j < rxMax ∧ (cellAt rx (k + j)).isSome = true) :
    ∃ f, rxRead rxMax rx k n = .ok f ∧ f.length = n ∧ ∀ j (hj : j < f.length), cellAt rx (k + j) = some f[j] := by
  induction n generalizing k with
  | zero => exact ⟨[], rfl, rfl, fun j hj => absurd hj (by simp)⟩
  | succ n ih =>
    obtain ⟨h0, hs⟩ := h 0 (by omega)
    obtain ⟨b, hb⟩ := Option.isSome_iff_exists.mp hs
    obtain ⟨f, hf, hlen, hget⟩ := ih (k := k + 1) fun j hj => by
      have := h (j + 1) (by omega)
      rwa [show k + (j + 1) = k + 1 + j by omega] at this
    refine ⟨b :: f, ?_, by simp [hlen], ?_⟩
    · simp only [Nat.add_zero] at h0 hb
      simp [rxRead, h0, hb, hf, Except.map]
    · intro j hj
      cases j with
      | zero => simpa using hb
      | succ j =>
        have := hget j (by simpa using hj)
        rw [show k + (j + 1) = k + 1 + j by omega, this]
        simp

/-- A read that gives a frame gives what is listed. -/
theorem rxRead_ok {rxMax : Nat} {rx : List Host.Cell} {n k : Nat} {f : List Byte}
    (h : rxRead rxMax rx k n = .ok f) :
    f.length = n ∧ (∀ j < n, k + j < rxMax) ∧ ∀ j (hj : j < f.length), cellAt rx (k + j) = some f[j] := by
  induction n generalizing k f with
  | zero =>
    simp only [rxRead, Except.ok.injEq] at h
    subst h
    simp
  | succ n ih =>
    simp only [rxRead] at h
    split at h
    · rename_i hk
      cases hc : cellAt rx k with
      | none => simp [hc] at h
      | some b =>
        simp only [hc] at h
        cases hr : rxRead rxMax rx (k + 1) n with
        | error e => simp [hr, Except.map] at h
        | ok g =>
          simp only [hr, Except.map, Except.ok.injEq] at h
          subst h
          obtain ⟨hl, hlt, hg⟩ := ih hr
          refine ⟨by simp [hl], ?_, ?_⟩
          · intro j hj
            cases j with
            | zero => simpa using hk
            | succ j =>
              have := hlt j (by omega)
              omega
          · intro j hj
            cases j with
            | zero => simpa using hc
            | succ j =>
              have := hg j (by simpa using hj)
              rw [show k + (j + 1) = k + 1 + j by omega, this]
              simp
    · cases h

/-- Everything CONSUME can do. -/
theorem consume_cases (s : State) :
    (s.rxrdy = false ∧ consume s = .next s) ∨
    (s.rxrdy = true ∧ ∃ r, readyFrame s = .error r ∧ consume s = .fault r) ∨
    (s.rxrdy = true ∧ ∃ f, readyFrame s = .ok f ∧ consume s = onNext (runFrame f s) clearReady) := by
  unfold consume
  cases hr : s.rxrdy with
  | false => simp
  | true =>
    cases hf : readyFrame s with
    | error r => simp
    | ok f => simp

/-- Everything an exchange return can do. -/
theorem onXfer_next {buf : List Byte} {len : Nat} {status : ExchangeStatus} {s t : State}
    (h : onXfer buf len status s = .next t) :
    (status = .timeout ∧ t = s) ∨ (status = .ok ∧ len = 0 ∧ t = s) ∨
    (status = .ok ∧ 1 ≤ len ∧ len ≤ s.params.rxMax ∧ len ≤ buf.length ∧
      runFrame (buf.take len) { s with txnCount := bumpCounter s.params.cntW s.txnCount } = .next t) := by
  unfold onXfer at h
  cases status with
  | timeout => exact .inl ⟨rfl, (Host.Outcome.next.inj h).symm⟩
  | other c => cases h
  | ok =>
    simp only at h
    split at h
    · cases h
    · rename_i hn
      split at h
      · rename_i h0
        exact .inr (.inl ⟨rfl, h0, (Host.Outcome.next.inj h).symm⟩)
      · exact .inr (.inr ⟨rfl, by omega, by omega, by omega, h⟩)

/-- Everything a step can be: the next event, or with no event left the engine's CONSUME or a wait. -/
theorem step_cases (s : State) :
    (∃ e rest, s.schedule = e :: rest ∧ step s = runEvent e { s with schedule := rest }) ∨
    (s.schedule = [] ∧ s.params.syncMode = .edge ∧ step s = consume s) ∨
    (s.schedule = [] ∧ s.params.syncMode = .queued ∧ step s = .next s) := by
  unfold step takeStep
  cases hs : s.schedule with
  | cons e rest => exact .inl ⟨e, rest, rfl, rfl⟩
  | nil =>
    cases hm : s.params.syncMode with
    | edge => simp
    | queued => simp

/-! ### Runs -/

@[simp] theorem runSteps_zero (s : State) : runSteps 0 s = .next s := rfl

theorem runSteps_succ (k : Nat) (s : State) :
    runSteps (k + 1) s =
      match step s with
      | .next t => runSteps k t
      | .fault r => .fault r
      | .refused r => .refused r := by
  have run_next : ∀ (M : Host.Core) (x y : M.State), M.step x = .next y → M.run (k + 1) x = M.run k y :=
    fun _ _ _ h => by rw [Host.Core.run, h]
  have run_fault : ∀ (M : Host.Core) (x : M.State) (r), M.step x = .fault r → M.run (k + 1) x = .fault r :=
    fun _ _ _ h => by rw [Host.Core.run, h]
  have run_refused : ∀ (M : Host.Core) (x : M.State) (r), M.step x = .refused r → M.run (k + 1) x = .refused r :=
    fun _ _ _ h => by rw [Host.Core.run, h]
  cases h : step s with
  | next t => exact run_next Sys2Proof.core s t h
  | fault r => exact run_fault Sys2Proof.core s r h
  | refused r => exact run_refused Sys2Proof.core s r h

theorem runSteps_of_next {k : Nat} {s t : State} (h : step s = .next t) : runSteps (k + 1) s = runSteps k t := by
  rw [runSteps_succ, h]

/-- Two runs in a row are one. -/
theorem runSteps_add (j k : Nat) {s t : State} (h : runSteps j s = .next t) : runSteps (j + k) s = runSteps k t := by
  induction j generalizing s with
  | zero =>
    cases h
    simp
  | succ j ih =>
    rw [Nat.succ_add, runSteps_succ]
    rw [runSteps_succ] at h
    cases hs : step s with
    | next u =>
      rw [hs] at h
      exact ih h
    | fault r => simp [hs] at h
    | refused r => simp [hs] at h

/-- A step with an event to come is that event. -/
theorem step_of_schedule {s : State} {e : Event} {rest : List Event} (h : s.schedule = e :: rest) :
    step s = runEvent e { s with schedule := rest } := by
  simp [step, takeStep, h]

/-! ### Colours on the wire -/

theorem takeColours_colourBytes (cs : List Colour) (tail : List Byte) :
    takeColours cs.length (colourBytes cs ++ tail) = some (cs, tail) := by
  induction cs with
  | nil => rfl
  | cons c cs ih => simp [takeColours, colourBytes, ih]

theorem colourBytes_length (cs : List Colour) : (colourBytes cs).length = 3 * cs.length := by
  induction cs with
  | nil => rfl
  | cons c cs ih => simp only [colourBytes, List.length_cons, ih]; omega

theorem takeColours_some {k : Nat} {bytes tail : List Byte} {cs : List Colour}
    (h : takeColours k bytes = some (cs, tail)) : cs.length = k ∧ bytes = colourBytes cs ++ tail := by
  induction k generalizing bytes cs with
  | zero => simp_all [takeColours, colourBytes]
  | succ k ih =>
    match bytes, h with
    | r :: g :: b :: rest, h =>
      simp only [takeColours, Option.map_eq_some_iff, Prod.mk.injEq, Prod.exists] at h
      obtain ⟨cs', t', h', rfl, rfl⟩ := h
      obtain ⟨hl, hb⟩ := ih h'
      simp [hl, hb, colourBytes]
    | [], h => simp [takeColours] at h
    | [_], h => simp [takeColours] at h
    | [_, _], h => simp [takeColours] at h

theorem takeColours_none {k : Nat} {bytes : List Byte} : takeColours k bytes = none ↔ bytes.length < 3 * k := by
  induction k generalizing bytes with
  | zero => simp [takeColours]
  | succ k ih =>
    match bytes with
    | r :: g :: b :: rest =>
      simp only [takeColours, Option.map_eq_none_iff, ih, List.length_cons]
      omega
    | [] => simp [takeColours]
    | [_] => simp [takeColours]; omega
    | [_, _] => simp [takeColours]; omega

theorem allColours_colourBytes (cs : List Colour) {tail : List Byte} (h : tail.length < 3) :
    allColours (colourBytes cs ++ tail) = (cs, tail) := by
  induction cs with
  | nil =>
    match tail, h with
    | [], _ => rfl
    | [_], _ => rfl
    | [_, _], _ => rfl
  | cons c cs ih => simp [allColours, colourBytes, ih]

theorem allColours_spec : ∀ bytes : List Byte,
    (allColours bytes).2.length < 3 ∧ bytes = colourBytes (allColours bytes).1 ++ (allColours bytes).2
  | [] => by simp [allColours, colourBytes]
  | [_] => by simp [allColours, colourBytes]
  | [_, _] => by simp [allColours, colourBytes]
  | r :: g :: b :: rest => by
    obtain ⟨h1, h2⟩ := allColours_spec rest
    refine ⟨h1, ?_⟩
    simp only [allColours, colourBytes, List.cons_append, ← h2]

/-! ### Two-byte fields -/

theorem u16be_toNat (hi lo : Byte) : (u16be hi lo).toNat = hi.toNat * 256 + lo.toNat := by
  have h1 := hi.isLt
  have h2 := lo.isLt
  simp only [u16be, BitVec.toNat_ofNat]
  omega

theorem hiByte_toNat (v : Half) : (hiByte v).toNat = v.toNat / 256 := by
  have := v.isLt
  simp only [hiByte, BitVec.extractLsb'_toNat, Nat.shiftRight_eq_div_pow]
  omega

theorem loByte_toNat (v : Half) : (loByte v).toNat = v.toNat % 256 := by
  simp [loByte, BitVec.extractLsb'_toNat]

@[simp] theorem u16be_hiByte_loByte (v : Half) : u16be (hiByte v) (loByte v) = v := by
  apply BitVec.eq_of_toNat_eq
  rw [u16be_toNat, hiByte_toNat, loByte_toNat]
  omega

@[simp] theorem hiByte_u16be (hi lo : Byte) : hiByte (u16be hi lo) = hi := by
  apply BitVec.eq_of_toNat_eq
  have := lo.isLt
  rw [hiByte_toNat, u16be_toNat]
  omega

@[simp] theorem loByte_u16be (hi lo : Byte) : loByte (u16be hi lo) = lo := by
  apply BitVec.eq_of_toNat_eq
  have := lo.isLt
  rw [loByte_toNat, u16be_toNat]
  omega

end Sys2Proof.Machine
end

