-- ==== Sys2Proof/Laws/Commands.lean ====
section
/-! SUPPORT. For each command, one lemma that says once everything it can do. -/

namespace Sys2Proof.Machine

theorem setAllFrameLength_eq (colours : List Colour) (tail : List Byte) :
    setAllFrameLength colours tail = (encode (.setAll colours tail)).length := by
  simp only [setAllFrameLength, encode, encodePayload, List.length_cons, List.length_append, colourBytes_length]
  omega

theorem configInRange_iff {p : Params} {strips : Byte} {len : Half} :
    configInRange p strips len = true ↔
      (1 ≤ strips.toNat ∧ strips.toNat ≤ p.maxStrips) ∧ 1 ≤ len.toNat ∧ len.toNat ≤ p.maxLeds := by
  simp [configInRange, and_assoc]

/-- SET_PIXEL: malformed, out of range, or one pixel write. -/
theorem execSetPixel_cases (ops : PixelOperands) (s : State) :
    (∃ payload, ops = .short payload ∧
      execSetPixel ops s = .next (raiseOutcome (.malformed opSetPixel (1 + payload.length) 6) s)) ∨
    (∃ index colour tail, ops = .full index colour tail ∧ total s ≤ index.toNat ∧ execSetPixel ops s = .next s) ∨
    (∃ index colour tail, ops = .full index colour tail ∧ index.toNat < total s ∧
      execSetPixel ops s = storePixels [(slot s index.toNat, colour)] s) := by
  cases ops with
  | short payload => exact .inl ⟨payload, rfl, rfl⟩
  | full index colour tail =>
    by_cases h : total s ≤ index.toNat
    · exact .inr (.inl ⟨index, colour, tail, rfl, h, by simp [execSetPixel, h, raiseOutcome]⟩)
    · exact .inr (.inr ⟨index, colour, tail, rfl, by omega, by simp [execSetPixel, h]⟩)

/-- SET_BRIGHTNESS: malformed, or the brightness stored. -/
theorem execSetBrightness_cases (ops : BrightnessOperands) (s : State) :
    (ops = .short ∧ execSetBrightness ops s = .next (raiseOutcome (.malformed opSetBrightness 1 2) s)) ∨
    (∃ v tail, ops = .full v tail ∧ execSetBrightness ops s = .next { s with bright := v }) := by
  cases ops with
  | short => exact .inl ⟨rfl, rfl⟩
  | full v tail => exact .inr ⟨v, tail, rfl, rfl⟩

/-- SET_RANGE: malformed in its two ways, out of range, or the clamped row of writes. -/
theorem execSetRange_cases (ops : RangeOperands) (s : State) :
    (∃ n expected, execSetRange ops s = .next (raiseOutcome (.malformed opSetRange n expected) s) ∧
      ((∃ payload, ops = .short payload ∧ n = 1 + payload.length ∧ expected = 4) ∨
        ∃ start count data, ops = .starved start count data ∧ n = 4 + data.length ∧
          expected = 4 + 3 * count.toNat)) ∨
    (∃ start colours tail, ops = .full start colours tail ∧ total s ≤ start.toNat ∧ execSetRange ops s = .next s) ∨
    (∃ start colours tail, ops = .full start colours tail ∧ start.toNat < total s ∧
      execSetRange ops s = storePixels (rangeWrites s start.toNat colours) s) := by
  cases ops with
  | short payload => exact .inl ⟨_, _, rfl, .inl ⟨payload, rfl, rfl, rfl⟩⟩
  | starved start count data => exact .inl ⟨_, _, rfl, .inr ⟨start, count, data, rfl, rfl, rfl⟩⟩
  | full start colours tail =>
    by_cases h : total s ≤ start.toNat
    · exact .inr (.inl ⟨start, colours, tail, rfl, h, by simp [execSetRange, h, raiseOutcome]⟩)
    · exact .inr (.inr ⟨start, colours, tail, rfl, by omega, by simp [execSetRange, h]⟩)

/-- SET_ALL: malformed, or the row of writes, the blanking and the render. -/
theorem execSetAll_cases (colours : List Colour) (tail : List Byte) (s : State) :
    ((encode (.setAll colours tail)).length < 1 + 3 * total s ∧
      execSetAll colours tail s = .next
        (raiseOutcome (.malformed opSetAll (encode (.setAll colours tail)).length (1 + 3 * total s)) s)) ∨
    (1 + 3 * total s ≤ (encode (.setAll colours tail)).length ∧
      execSetAll colours tail s = onNext (storePixels (allWrites s colours) s)
        (fun t => doRender (blankUnaddressed s.cfgStrips.toNat s.cfgLen.toNat t))) := by
  rw [← setAllFrameLength_eq]
  by_cases h : setAllFrameLength colours tail < setAllLength (total s)
  · left
    exact ⟨h, by unfold execSetAll; rw [if_pos h]; rfl⟩
  · right
    exact ⟨Nat.le_of_not_lt h, by unfold execSetAll; rw [if_neg h]⟩

/-- RECONFIGURE: malformed, rejected for its values, or applied, blanked and rendered. -/
theorem execReconfigure_cases (ops : ReconfigureOperands) (s : State) :
    (∃ payload, ops = .short payload ∧
      execReconfigure ops s = .next (raiseOutcome (.malformed opReconfigure (1 + payload.length) 4) s)) ∨
    (∃ strips len debug tail, ops = .full strips len debug tail ∧ configInRange s.params strips len = false ∧
      execReconfigure ops s = .next (raiseOutcome (.configRejected strips len) s)) ∨
    (∃ strips len debug tail, ops = .full strips len debug tail ∧ configInRange s.params strips len = true ∧
      execReconfigure ops s = .next (doRender (blankUnaddressed strips.toNat len.toNat
        { putConfig strips len s with debug := debugAfter s.debug debug }))) := by
  cases ops with
  | short payload => exact .inl ⟨payload, rfl, rfl⟩
  | full strips len debug tail =>
    cases h : configInRange s.params strips len with
    | false => exact .inr (.inl ⟨strips, len, debug, tail, rfl, h, by simp [execReconfigure, h]⟩)
    | true => exact .inr (.inr ⟨strips, len, debug, tail, rfl, h, by simp [execReconfigure, h]⟩)

end Sys2Proof.Machine
end

