-- ==== Sys2Proof/Laws/PerInstr.lean ====
section
/-! SUPPORT. Statements made per instruction, one lemma a constructor. -/

namespace Sys2Proof.Laws

/-- The frame of every command starts with one of the eight opcodes of R83, its own, and the payload follows it
(R70). -/
def OpcodeFirst.Statement (i : Instr) : Prop :=
  encode i = opcodeOf i :: encodePayload i ∧
  opcodeOf i ∈ [opSetPixel, opSetBrightness, opRender, opClear, opSetRange, opSetAll, opReconfigure, opKeepalive]

theorem OpcodeFirst.setPixel (ops : PixelOperands) : OpcodeFirst.Statement (.setPixel ops) :=
  ⟨rfl, by simp [opcodeOf]⟩

theorem OpcodeFirst.setBrightness (ops : BrightnessOperands) : OpcodeFirst.Statement (.setBrightness ops) :=
  ⟨rfl, by simp [opcodeOf]⟩

theorem OpcodeFirst.render (tail : List Byte) : OpcodeFirst.Statement (.render tail) :=
  ⟨rfl, by simp [opcodeOf]⟩

theorem OpcodeFirst.clear (tail : List Byte) : OpcodeFirst.Statement (.clear tail) :=
  ⟨rfl, by simp [opcodeOf]⟩

theorem OpcodeFirst.setRange (ops : RangeOperands) : OpcodeFirst.Statement (.setRange ops) :=
  ⟨rfl, by simp [opcodeOf]⟩

theorem OpcodeFirst.setAll (colours : List Colour) (tail : List Byte) :
    OpcodeFirst.Statement (.setAll colours tail) :=
  ⟨rfl, by simp [opcodeOf]⟩

theorem OpcodeFirst.reconfigure (ops : ReconfigureOperands) : OpcodeFirst.Statement (.reconfigure ops) :=
  ⟨rfl, by simp [opcodeOf]⟩

theorem OpcodeFirst.keepalive (tail : List Byte) : OpcodeFirst.Statement (.keepalive tail) :=
  ⟨rfl, by simp [opcodeOf]⟩

end Sys2Proof.Laws
end

