-- ==== Sys2Proof/Tests/Slice0.lean ====
section
/-! SUPPORT. The model's own tests. Expected values are from 95_test_vectors.md (a vector's name stands in the
docstring) or worked out by hand from the rule named there. The theorems named `witness_…` show, for an obligation with
hypotheses, concrete states and operands that meet them. -/

open Sys2Proof Sys2Proof.Machine

namespace Sys2Proof.Tests

/-! ### Helpers -/

/-- `S23`: the reset state with the configuration (2, 3). -/
def s23 : State := { State.reset with cfgLen := 3 }

/-- `S12`: the reset state with the configuration (1, 2). -/
def s12 : State := { State.reset with cfgStrips := 1, cfgLen := 2 }

/-- `s` with the cells listed in `fb`. -/
def withFb (fb : List (Nat × Colour)) (s : State) : State := { s with mem := ⟨s.mem.rx, fb⟩ }

/-- `s` with the events `es` to come. -/
def withEvents (es : List Event) (s : State) : State := { s with schedule := es }

/-- P_EX with `RX_MAX = 4`. -/
def smallBuffer : Params := { Params.reference with rxMax := 4 }

/-- The reset state of P_EX built for `QUEUED` mode. -/
def queued : State := State.resetFor { Params.reference with syncMode := .queued }

/-- The parameter set P_BIG in the configuration (3, 260). -/
def big : State :=
  { State.resetFor { Params.reference with maxStrips := 4, maxLeds := 300, rxMax := 1024, rstStrips := 4, rstLen := 300 }
    with cfgStrips := 3, cfgLen := 260 }

/-- A published KEEPALIVE frame, as FS1 leaves it before its CONSUME. -/
def ready : State := { State.reset with mem := ⟨[(0, 0xFF)], []⟩, wp := 1, rxcnt := 1, rxrdy := true, txnCount := 1 }

/-- A capture in progress with two bytes. -/
def capturing : State := { State.reset with mem := ⟨[(0, 0x03), (1, 0x55)], []⟩, wp := 2, armed := true }

/-- A capture in progress whose buffer of four bytes is full. -/
def full : State :=
  { State.resetFor smallBuffer with mem := ⟨[(0, 1), (1, 0), (2, 0), (3, 10)], []⟩, wp := 4, armed := true }

/-- What `f` sees in the next state. -/
def seen {α : Type} (o : Host.Outcome State Fault Refusal) (f : State → α) : Option α :=
  match o with
  | .next t => some (f t)
  | .fault _ => none
  | .refused _ => none

/-! ### WellFormed: an ill-formed term for each check -/

theorem test_refuses_short_pixel_of_five : (Instr.setPixel (.short [0, 0, 0, 0, 0])).wellFormed = false := by decide

theorem test_refuses_short_range_of_three : (Instr.setRange (.short [0, 0, 1])).wellFormed = false := by decide

theorem test_refuses_starved_range_with_enough : (Instr.setRange (.starved 0 1 [1, 2, 3])).wellFormed = false := by
  decide

theorem test_refuses_range_of_256_colours :
    (Instr.setRange (.full 0 (List.replicate 256 Colour.idle) [])).wellFormed = false := by
  simp only [Instr.wellFormed, RangeOperands.wellFormed, List.length_replicate]
  decide

theorem test_refuses_set_all_with_a_whole_triple_left : (Instr.setAll [] [1, 2, 3]).wellFormed = false := by decide

theorem test_refuses_short_reconfigure_of_three : (Instr.reconfigure (.short [1, 0, 2])).wellFormed = false := by decide

theorem test_refuses_reconfigure_tail_without_flag :
    (Instr.reconfigure (.full 1 2 none [7])).wellFormed = false := by decide

/-! ### Decode: words written out from the layouts of 30_encoding.md -/

/-- R72: index 0x0104 is big-endian, 260. -/
theorem test_decodes_set_pixel :
    decode [0x01, 0x01, 0x04, 0x0A, 0x14, 0x1E, 0x55] = .instr (.setPixel (.full 260 ⟨10, 20, 30⟩ [0x55])) := by decide

/-- R73. -/
theorem test_decodes_set_brightness : decode [0x02, 0x80] = .instr (.setBrightness (.full 128 [])) := by decide

/-- R74, and 90_conflicts.md C1. -/
theorem test_decodes_render : decode [0x03] = .instr (.render []) := by decide

/-- R75, and 90_conflicts.md C1. -/
theorem test_decodes_clear : decode [0x04, 0x07] = .instr (.clear [7]) := by decide

/-- R76: the colours start at offset 4 (90_conflicts.md C2). -/
theorem test_decodes_set_range :
    decode [0x05, 0x00, 0x05, 0x01, 0x07, 0x08, 0x09, 0xAA] = .instr (.setRange (.full 5 [⟨7, 8, 9⟩] [0xAA])) := by
  decide

/-- R76: two colours announced, one there. -/
theorem test_decodes_starved_set_range :
    decode [0x05, 0x00, 0x00, 0x02, 1, 1, 1] = .instr (.setRange (.starved 0 2 [1, 1, 1])) := by decide

/-- R77. -/
theorem test_decodes_set_all :
    decode [0x06, 1, 2, 3, 4, 5, 6, 7] = .instr (.setAll [⟨1, 2, 3⟩, ⟨4, 5, 6⟩] [7]) := by decide

/-- R79: with and without the fifth byte. -/
theorem test_decodes_reconfigure :
    decode [0x07, 0x02, 0x01, 0x00] = .instr (.reconfigure (.full 2 256 none [])) ∧
    decode [0x07, 0x02, 0x00, 0x03, 0x01, 0xFF] = .instr (.reconfigure (.full 2 3 (some 1) [0xFF])) := by decide

/-- R78. -/
theorem test_decodes_keepalive : decode [0xFF, 0x00] = .instr (.keepalive [0]) := by decide

/-- R84: the neighbours of the eight opcodes. -/
theorem test_unrecognized_opcodes :
    decode [0x00, 1] = .unrecognized 0x00 ∧ decode [0x08, 1, 2] = .unrecognized 0x08 ∧
    decode [0xFE] = .unrecognized 0xFE ∧ decode [] = .empty := by decide

/-- R87: the encoder writes the layout of the written form. -/
theorem test_encodes_set_range :
    encode (.setRange (.full 0x0102 [⟨0x11, 0x22, 0x33⟩] [])) = [0x05, 0x01, 0x02, 0x01, 0x11, 0x22, 0x33] := by decide

/-- The eight rows of spec/opcode_table.json, their one byte followed by zeros. -/
theorem test_table_words :
    decodeTableWord 8 0x01 = some (.setPixel (.full 0 Colour.idle [])) ∧
    decodeTableWord 8 0x02 = some (.setBrightness (.full 0 [])) ∧
    decodeTableWord 8 0x03 = some (.render []) ∧
    decodeTableWord 8 0x04 = some (.clear []) ∧
    decodeTableWord 8 0x05 = some (.setRange (.full 0 [] [])) ∧
    decodeTableWord 8 0x06 = some (.setAll (List.replicate 10 Colour.idle) []) ∧
    decodeTableWord 8 0x07 = some (.reconfigure (.full 0 0 none [])) ∧
    decodeTableWord 8 0xFF = some (.keepalive []) ∧
    decodeTableWord 8 0x08 = none := by decide

/-! ### The translator (table of 42_address_translator.md, and 95_test_vectors.md section 5) -/

theorem test_slots_of_2_3 :
    (List.range 8).map (slot s23) = [0, 1, 2, 5, 6, 7, 7, 7] ∧
    (List.range 10).filter (fun p => !addressableNow s23 p) = [3, 4, 8, 9] ∧ logicalIn 5 3 6 = 4 := by decide

theorem test_slots_of_a_big_build :
    slot big 259 = 259 ∧ slot big 260 = 300 ∧ slot big 261 = 301 ∧ slot big 779 = 859 := by decide

/-- 00_scope.md section 6: red in bits 23:16. -/
theorem test_packs_red_first : packColour ⟨0x12, 0x34, 0x56⟩ = 0x123456#24 := by decide

/-! ### One frame each (95_test_vectors.md; `runFrame` leaves out the front end's TXN_COUNT) -/

/-- PX2: the last pixel. -/
theorem test_set_pixel_last :
    seen (runFrame [0x01, 0x00, 0x05, 1, 2, 3] s23) (fun t => (t.mem.fb, t.trace, t.frameCount)) =
      some ([(7, ⟨1, 2, 3⟩)], [], 0) := by decide

/-- PX5: index 256, out of range; a little-endian reading would write pixel 1. -/
theorem test_set_pixel_big_endian : seen (runFrame [0x01, 0x01, 0x00, 1, 2, 3] s23) id = some s23 := by decide

/-- BR1. -/
theorem test_set_brightness : seen (runFrame [0x02, 0x80] s23) id = some { s23 with bright := 128 } := by decide

/-- BR4: brightness 0 is also a zero payload. -/
theorem test_set_brightness_zero :
    seen (runFrame [0x02, 0x00] s23) id =
      some { s23 with bright := 0, zpayCount := 1, trace := [.log (.zeroPayload 0x02 2)] } := by decide

/-- RC1. -/
theorem test_render :
    seen (runFrame [0x03] (withFb [(6, ⟨10, 20, 30⟩)] s23)) (fun t => (t.trace, t.frameCount, t.mem.fb)) =
      some ([.render (List.replicate 6 Colour.idle ++ [⟨10, 20, 30⟩] ++ List.replicate 3 Colour.idle) 255], 1,
        [(6, ⟨10, 20, 30⟩)]) := by decide

/-- RC2: the log event comes before the render. -/
theorem test_render_zero_tail :
    seen (runFrame [0x03, 0x00] s23) (fun t => (t.trace, t.zpayCount)) =
      some ([.log (.zeroPayload 0x03 2), .render (List.replicate 10 Colour.idle) 255], 1) := by decide

/-- RC4. -/
theorem test_clear :
    seen (runFrame [0x04] (withFb [(6, ⟨10, 20, 30⟩)] s23)) (fun t => (t.mem.fb, t.trace, t.frameCount)) =
      some ([], [.render (List.replicate 10 Colour.idle) 255], 1) := by decide

/-- RG3: clamped to two pixels, in the second strip. -/
theorem test_set_range_clamps :
    seen (runFrame [0x05, 0x00, 0x04, 0x03, 10, 10, 10, 11, 11, 11, 12, 12, 12] s23)
      (fun t => (t.mem.fb, t.malformedCount, t.trace)) =
      some ([(6, ⟨10, 10, 10⟩), (7, ⟨11, 11, 11⟩)], 0, []) := by decide

/-- RG9: too short and out of range is malformed. -/
theorem test_set_range_length_first :
    seen (runFrame [0x05, 0x00, 0x09, 0x02, 1, 1, 1] s23) (fun t => (t.malformedCount, t.trace)) =
      some (1, [.log (.malformed 0x05 7 10)]) := by decide

/-- SA1. -/
theorem test_set_all :
    seen (runFrame [0x06, 1, 2, 3, 4, 5, 6] (withFb [(0, ⟨9, 9, 9⟩)] s12)) (fun t => (t.mem.fb, t.trace)) =
      some ([(0, ⟨1, 2, 3⟩), (1, ⟨4, 5, 6⟩)],
        [.render ([⟨1, 2, 3⟩, ⟨4, 5, 6⟩] ++ List.replicate 8 Colour.idle) 255]) := by decide

/-- SA2: one byte short. -/
theorem test_set_all_one_short :
    seen (runFrame [0x06, 1, 2, 3, 4, 5] (withFb [(0, ⟨9, 9, 9⟩)] s12)) id =
      some { withFb [(0, ⟨9, 9, 9⟩)] s12 with malformedCount := 1, trace := [.log (.malformed 0x06 6 7)] } := by decide

/-- The example of R190, with the colours of 95_test_vectors.md section 2.1. -/
theorem test_reconfigure :
    seen (runFrame [0x07, 0x01, 0x00, 0x02]
      (withFb [(0, ⟨1, 1, 1⟩), (1, ⟨2, 2, 2⟩), (2, ⟨3, 3, 3⟩), (5, ⟨4, 4, 4⟩), (7, ⟨6, 6, 6⟩)] s23))
      (fun t => (t.cfgStrips, t.cfgLen, t.mem.fb, t.frameCount)) =
      some (1, 2, [(0, ⟨1, 1, 1⟩), (1, ⟨2, 2, 2⟩)], 1) := by decide

/-- CF16: the flag of a rejected frame is not applied. -/
theorem test_reconfigure_rejected :
    seen (runFrame [0x07, 0x03, 0x00, 0x03, 0x01] State.reset) id =
      some { State.reset with malformedCount := 1, trace := [.log (.configRejected 3 3)] } := by decide

/-- DK2. -/
theorem test_keepalive : seen (runFrame [0xFF] s23) id = some { s23 with status := true } := by decide

/-- DK8: the pre-check runs before the opcode is looked at. -/
theorem test_unknown_opcode :
    seen (runFrame [0x00, 0x00] s23) (fun t => (t.zpayCount, t.malformedCount, t.trace)) =
      some (1, 0, [.log (.zeroPayload 0x00 2), .log (.unknownOpcode 0x00 2)]) := by decide

/-- DK11: an exempt opcode. -/
theorem test_exempt_opcode :
    seen (runFrame [0x02, 0x00] { s23 with params := { Params.reference with zpExempt := [2] } })
      (fun t => (t.bright, t.zpayCount)) = some (0, 0) := by decide

/-! ### One step each -/

/-- FS6: a second start edge restarts the capture and leaves the bytes where they are. -/
theorem test_restart :
    seen (step (withEvents [.selAssert] capturing)) (fun t => (t.armed, t.wp, t.mem.rx)) =
      some (true, 0, [(0, 0x03), (1, 0x55)]) := by decide

/-- FS10: the fifth byte of a buffer of four is lost. -/
theorem test_overflow : seen (step (withEvents [.byte 0x14] full)) id = some full := by decide

/-- FS1, the end edge. -/
theorem test_publish :
    seen (step (withEvents [.selDeassert] { ready with armed := true, rxcnt := 0, rxrdy := false, txnCount := 0 })) id =
      some ready := by decide

/-- FS1, CONSUME. -/
theorem test_consume :
    seen (step (withEvents [.consume] ready)) id = some { ready with status := true, rxrdy := false } := by decide

/-- The worked example of R110. -/
theorem test_exchange :
    seen (step (withEvents [.xfer [0x02, 0x80, 0x00] 2 .ok] queued)) id =
      some { queued with txnCount := 1, bright := 0x80 } := by decide

/-- The frame of each table row runs as the first after reset. -/
theorem test_first_frames :
    seen (step (State.reset.withFetchWord 8 0x01)) (fun t => (t.rxrdy, t.zpayCount)) = some (false, 1) ∧
    seen (step (State.reset.withFetchWord 8 0x02)) (fun t => t.bright) = some 0 ∧
    seen (step (State.reset.withFetchWord 8 0x03)) (fun t => t.frameCount) = some 1 ∧
    seen (step (State.reset.withFetchWord 8 0x04)) (fun t => t.frameCount) = some 1 ∧
    seen (step (State.reset.withFetchWord 8 0x05)) (fun t => (t.malformedCount, t.zpayCount)) = some (0, 1) ∧
    seen (step (State.reset.withFetchWord 8 0x06)) (fun t => t.frameCount) = some 1 ∧
    seen (step (State.reset.withFetchWord 8 0x07)) (fun t => t.malformedCount) = some 1 ∧
    seen (step (State.reset.withFetchWord 8 0xFF)) (fun t => t.status) = some true := by decide

/-! ### Witnesses: encoding -/

theorem witness_DecodeOfEncodeIsTheInstruction :
    (Instr.setPixel (.full 0xFFFF ⟨1, 2, 3⟩ [4])).wellFormed = true ∧
    (Instr.setPixel (.short [0, 4, 10, 20])).wellFormed = true ∧
    (Instr.setBrightness .short).wellFormed = true ∧
    (Instr.render []).wellFormed = true ∧ (Instr.clear [0]).wellFormed = true ∧
    (Instr.setRange (.short [0, 0])).wellFormed = true ∧
    (Instr.setRange (.starved 9 2 [1, 1, 1, 2, 2])).wellFormed = true ∧
    (Instr.setRange (.full 5 [⟨7, 8, 9⟩] [])).wellFormed = true ∧
    (Instr.setAll [⟨1, 2, 3⟩] [4, 5]).wellFormed = true ∧
    (Instr.reconfigure (.full 2 5 (some 0) [7])).wellFormed = true ∧
    (Instr.reconfigure (.full 2 5 none [])).wellFormed = true ∧
    (Instr.keepalive []).wellFormed = true := by decide

theorem witness_EncodeOfDecodeIsTheFrame :
    decode [0x05, 0x00, 0x00, 0x01, 1, 2] = .instr (.setRange (.starved 0 1 [1, 2])) := by decide

theorem witness_OpcodeByteSelectsTheCommand :
    (0x08 ≤ (0x08 : Byte).toNat ∧ (0x08 : Byte).toNat ≤ 0xFE) ∧
    (0x08 ≤ (0xFE : Byte).toNat ∧ (0xFE : Byte).toNat ≤ 0xFE) := by decide

theorem witness_FrameFieldsStandWhereTheLayoutsSay :
    ([0, 4, 10, 20] : List Byte).length + 1 < 6 ∧ ([0, 0] : List Byte).length + 1 < 4 ∧
    ([] : List Colour).length = (0 : Byte).toNat ∧ [Colour.idle].length = (1 : Byte).toNat ∧
    ([1, 2] : List Byte).length < 3 * (1 : Byte).toNat ∧ ([1, 2] : List Byte).length < 3 := by decide

/-! ### Witnesses: the translator -/

theorem witness_SlotFollowsTheTranslationFormula :
    ConfigInv s23 ∧ 5 / s23.cfgLen.toNat ≤ s23.cfgStrips.toNat - 1 ∧ s23.cfgStrips.toNat - 1 < 6 / s23.cfgLen.toNat ∧
    total s23 = 6 := by decide

theorem witness_SlotStaysInsideTheFrameBuffer : ConfigInv big ∧ slot big 779 = 859 ∧ big.params.nslots = 1200 := by
  decide

theorem witness_AddressableSlotsAreTheImageOfSlot :
    ConfigInv s12 ∧ addressableNow s12 1 = true ∧ addressableNow s12 2 = false := by decide

theorem witness_SlotIsInjectiveWithAnInverse :
    ConfigInv s23 ∧ 5 < total s23 ∧ slot s23 5 = 7 ∧ addressableNow s23 7 = true ∧ total s23 ≤ 6 := by decide

theorem witness_SlotKeepsTheLogicalOrder : ConfigInv s23 ∧ 2 < 3 ∧ 3 < total s23 := by decide

/-! ### Witnesses: the decoder and its outcomes -/

theorem witness_PrecheckMarksAllZeroPayloads :
    (([0] : List Byte) ≠ [] ∧ (0x02 : Byte) ∉ s23.params.zpExempt ∧ ∀ b ∈ ([0] : List Byte), b = 0) ∧
    (0x02 : Byte) ∈ ({ Params.reference with zpExempt := [2] } : Params).zpExempt ∧
    (∃ b ∈ ([0, 1] : List Byte), b ≠ 0) ∧
    decode [0x02, 0] = .instr (.setBrightness (.full 0 [])) ∧ decode [0x08, 0] = .unrecognized 0x08 := by decide

/-- The unrecognized values next to the recognized ones. -/
theorem witness_UnknownOpcodeIsLoggedAndDropped :
    (0x08 ≤ (0x08 : Byte).toNat ∧ (0x08 : Byte).toNat ≤ 0xFE) ∧
    (0x08 ≤ (0xFE : Byte).toNat ∧ (0xFE : Byte).toNat ≤ 0xFE) ∧
    seen (runFrame [0x08, 0] s23) (fun t => t.trace) =
      some [.log (.zeroPayload 0x08 2), .log (.unknownOpcode 0x08 2)] := by decide

theorem witness_FrameRunsTheCommandItDecodesTo : decode [0xFF, 0x00] = .instr (.keepalive [0]) := by decide

/-- Each line of R202's table one byte below its length, and a frame that logs the event. -/
theorem witness_ShortFramesAreMalformed :
    ([0, 4, 10, 20] : List Byte).length + 1 < 6 ∧ ([] : List Byte).length + 1 < 2 ∧
    ([0, 0] : List Byte).length + 1 < 4 ∧
    (([0, 0, 2, 1, 1, 1, 2, 2] : List Byte)[2]? = some 2 ∧
      ([0, 0, 2, 1, 1, 1, 2, 2] : List Byte).length + 1 < 4 + 3 * (2 : Byte).toNat) ∧
    ([1, 2, 3, 4, 5] : List Byte).length + 1 < 1 + 3 * total s12 ∧
    seen (runFrame [0x01, 0, 4, 10, 20] s23) (fun t => t.trace) = some [.log (.malformed 0x01 5 6)] := by decide

/-- The first index out of range, and the last one in range with two colours. -/
theorem witness_OutOfRangeIsSilent :
    total s23 ≤ (6 : Half).toNat ∧ ConfigInv s23 ∧ (5 : Half).toNat < total s23 ∧
    total s23 < (5 : Half).toNat + [Colour.idle, Colour.idle].length := by decide

theorem witness_BadConfigurationIsRejected :
    (0 : Byte).toNat < 1 ∧ s23.params.maxStrips < (3 : Byte).toNat ∧ (0 : Half).toNat < 1 ∧
    s23.params.maxLeds < (6 : Half).toNat := by decide

/-- Each outcome that is not OK. -/
theorem witness_CommandsEndInTheOutcomeTheChecksGive :
    outcomeOf (.setPixel (.short [0, 4, 10, 20])) s23 = .malformed 0x01 5 6 ∧
    outcomeOf (.setPixel (.full 6 Colour.idle [])) s23 = .outOfRange ∧
    outcomeOf (.setRange (.full 6 [] [])) s23 = .outOfRange ∧
    outcomeOf (.setAll [⟨1, 2, 3⟩] [4, 5]) s12 = .malformed 0x06 6 7 ∧
    outcomeOf (.reconfigure (.full 3 3 none [])) s23 = .configRejected 3 3 := by decide

theorem witness_RejectedCommandsMutateNothing :
    outcomeOf (.setRange (.starved 0 2 [1, 1, 1])) s23 ≠ .ok ∧ outcomeOf (.setBrightness .short) s23 ≠ .ok := by decide

/-! ### Witnesses: the commands -/

/-- The last index in range and the first one out of it. -/
theorem witness_SetPixelWritesOneCell :
    1 + ([0, 4, 10, 20] : List Byte).length < 6 ∧ ConfigInv s23 ∧ (5 : Half).toNat < total s23 ∧ total s23 ≤ (6 : Half).toNat := by decide

theorem witness_ClearIdlesAndRenders : ConfigInv s23 ∧ IdleInv s23 ∧ IdleInv (withFb [(7, ⟨1, 2, 3⟩)] s23) := by decide

/-- The last start in range with two colours, so that one is clamped off, and the first start out of range. -/
theorem witness_SetRangeWritesTheClampedRange :
    [Colour.idle, Colour.idle].length = (2 : Byte).toNat ∧
    4 + ([1, 1, 1, 2, 2] : List Byte).length < 4 + 3 * (2 : Byte).toNat ∧ 1 + ([0, 0] : List Byte).length < 4 ∧
    ConfigInv s23 ∧ (5 : Half).toNat < total s23 ∧
    min [Colour.idle, Colour.idle].length (total s23 - (5 : Half).toNat) = 1 ∧
    total s23 ≤ (6 : Half).toNat := by decide

/-- One byte short, and long enough to the byte. -/
theorem witness_SetAllWritesEveryPixelAndRenders :
    ([4, 5] : List Byte).length < 3 ∧ ConfigInv s12 ∧ (encode (.setAll [⟨1, 2, 3⟩] [4, 5])).length < 1 + 3 * total s12 ∧
    1 + 3 * total s12 ≤ (encode (.setAll [⟨1, 2, 3⟩, ⟨4, 5, 6⟩] [])).length := by decide

theorem witness_SetRangeThenRenderShowsThePayload :
    ConfigInv s23 ∧ (4 : Half).toNat < total s23 ∧
    (4 : Half).toNat + [(⟨1, 2, 3⟩ : Colour), ⟨4, 5, 6⟩].length ≤ total s23 := by decide

/-- The least and the greatest pair, and the first ones out of range. -/
theorem witness_ReconfigureAppliesBlanksAndRenders :
    1 + ([1, 0] : List Byte).length < 4 ∧
    (1 ≤ (1 : Byte).toNat ∧ (2 : Byte).toNat ≤ s23.params.maxStrips) ∧
    (1 ≤ (1 : Half).toNat ∧ (5 : Half).toNat ≤ s23.params.maxLeds) ∧ s23.params.maxStrips < (3 : Byte).toNat ∧
    s23.params.maxLeds < (6 : Half).toNat := by decide

theorem witness_ReconfigureRendersTheBlankedBuffer :
    1 ≤ (1 : Byte).toNat ∧ (1 : Byte).toNat ≤ s23.params.maxStrips ∧ 1 ≤ (2 : Half).toNat ∧
    (2 : Half).toNat ≤ s23.params.maxLeds ∧ 9 < s23.params.nslots ∧
    ¬(9 / s23.params.maxLeds < (1 : Byte).toNat ∧ 9 % s23.params.maxLeds < (2 : Half).toNat) ∧
    seen (exec (.reconfigure (.full 1 2 none [])) s23) (fun t => addressableNow t 5) = some false ∧
    addressableNow s23 5 = true := by decide

/-- A published RECONFIGURE, an exchanged one, and a power cycle. -/
theorem witness_ConfigurationChangesOnlyByReconfigure :
    seen (step { withEvents [.consume] ready with mem := ⟨[(0, 7), (1, 1), (2, 0), (3, 2)], []⟩, rxcnt := 4 })
      (fun t => (t.cfgStrips, t.cfgLen)) = some (1, 2) ∧
    seen (step (withEvents [.xfer [7, 1, 0, 2] 4 .ok] queued)) (fun t => (t.cfgStrips, t.cfgLen)) = some (1, 2) ∧
    seen (step (withEvents [.powerCycle] s12)) (fun t => (t.cfgStrips, t.cfgLen)) = some (2, 5) ∧
    (1 ≤ (1 : Byte).toNat ∧ (1 : Byte).toNat ≤ s23.params.maxStrips) ∧
    (1 ≤ (5 : Half).toNat ∧ (5 : Half).toNat ≤ s23.params.maxLeds) := by decide

/-- One command of the render class, one of the others, one rejected, one unrecognized frame. -/
theorem witness_OnlyAcceptedRenderClassCommandsRender :
    (∃ t, exec (.clear []) s23 = .next t) ∧ outcomeOf (.clear []) s23 = .ok ∧
    (∃ t, exec (.keepalive []) s23 = .next t) ∧
    (∃ t, exec (.setAll [] []) s23 = .next t) ∧ outcomeOf (.setAll [] []) s23 ≠ .ok ∧
    decode [0x08] = .unrecognized 0x08 ∧ ∃ t, runFrame [0x08] s23 = .next t :=
  ⟨⟨_, rfl⟩, rfl, ⟨_, rfl⟩, ⟨_, rfl⟩, by decide, by decide, ⟨_, rfl⟩⟩

/-- A run of four steps that receives a RENDER frame and renders. -/
theorem witness_FrameCountCountsTheRenders :
    Event.powerCycle ∉ [Event.selAssert, .byte 3, .selDeassert, .consume] ∧
    seen (runSteps 4 { State.resetFor Params.reference with schedule := [.selAssert, .byte 3, .selDeassert, .consume] })
      (fun t => (t.frameCount, t.trace.countP isRender)) = some (1, 1) := by decide

/-- Each clause's change happens. -/
theorem witness_EachCellHasItsOwnWriters :
    seen (exec (.reconfigure (.full 1 2 (some 1) [])) s23) (fun t => (t.cfgStrips, t.cfgLen, t.debug)) =
      some (1, 2, true) ∧
    seen (exec (.setBrightness (.full 7 [])) s23) (fun t => t.bright) = some 7 ∧
    seen (exec (.keepalive []) s23) (fun t => t.status) = some true ∧
    seen (exec (.setPixel (.full 0 ⟨1, 1, 1⟩ [])) s23) (fun t => t.mem.fb) = some [(0, ⟨1, 1, 1⟩)] ∧
    seen (exec (.render []) s23) (fun t => t.frameCount) = some 1 ∧
    seen (exec (.setBrightness .short) s23) (fun t => t.malformedCount) = some 1 ∧
    seen (exec (.reconfigure (.full 3 3 none [])) s23) (fun t => t.malformedCount) = some 1 := by decide

/-- The clause on the duration: whatever is drawn, it differs from 0 or from 1. -/
theorem witness_EachCellHasItsOwnWriters_duration :
    ∃ s t, exec (.render []) s = .next t ∧ t.lastRenderDur ≠ s.lastRenderDur := by
  by_cases h : (doRender s23).lastRenderDur = 0
  · refine ⟨{ s23 with lastRenderDur := 1 }, _, rfl, ?_⟩
    show (doRender s23).lastRenderDur ≠ 1
    omega
  · exact ⟨s23, _, rfl, h⟩

/-! ### Witnesses: the front ends and the step -/

theorem witness_SelectAssertArmsUnlessAFrameWaits :
    (withEvents [.selAssert] capturing).params.syncMode = .edge ∧ capturing.rxrdy = false ∧
    (withEvents [.selAssert] ready).params.syncMode = .edge ∧ ready.rxrdy = true := by decide

/-- The last free cell, and none left. -/
theorem witness_ByteIsStoredOnlyWhileArmedAndNotFull :
    (withEvents [.byte 1] { full with wp := 3 }).armed = true ∧
    ({ full with wp := 3 } : State).wp < full.params.rxMax ∧ full.params.rxMax ≤ full.wp ∧
    full.params.syncMode = .edge ∧ State.reset.armed = false ∧ HandoffInv full := by decide

theorem witness_SelectDeassertPublishesANonEmptyCapture :
    (withEvents [.selDeassert] capturing).armed = true ∧ 1 ≤ ({ capturing with wp := 1 } : State).wp ∧
    ({ capturing with wp := 0 } : State).armed = true ∧ capturing.params.syncMode = .edge ∧
    State.reset.armed = false := by decide

/-- Five bytes into a buffer of four. -/
theorem witness_WholeTransactionIsPublishedTruncated :
    let s := withEvents (.selAssert :: (([2, 64, 255, 255, 255] : List Byte).map .byte ++ .selDeassert :: []))
      (State.resetFor smallBuffer)
    s.params.syncMode = .edge ∧ s.rxrdy = false ∧ 1 ≤ s.params.rxMax ∧
      s.schedule = .selAssert :: (([2, 64, 255, 255, 255] : List Byte).map .byte ++ .selDeassert :: []) := by decide

theorem witness_GatedTransactionLeavesNoTrace :
    let s := withEvents (.selAssert :: (([3] : List Byte).map .byte ++ .selDeassert :: [])) ready
    s.params.syncMode = .edge ∧ s.rxrdy = true ∧
      s.schedule = .selAssert :: (([3] : List Byte).map .byte ++ .selDeassert :: []) := by decide

theorem witness_ZeroLengthTransactionIsNoOp :
    let s := withEvents [.selAssert, .selDeassert] s23
    s.params.syncMode = .edge ∧ s.rxrdy = false ∧ s.schedule = .selAssert :: .selDeassert :: [] := by decide

/-- A late byte while a frame is ready. -/
theorem witness_ReadyFrameIsFrozen :
    HandoffInv (withEvents [.byte 3] ready) ∧ (withEvents [.byte 3] ready).rxrdy = true ∧
    step (withEvents [.byte 3] ready) = .next ready ∧ ready.rxrdy = true := ⟨by decide, rfl, rfl, rfl⟩

theorem witness_CaptureContextWritesOnlyItsCells :
    (withEvents [.selAssert] ready).schedule = .selAssert :: [] ∧
    (withEvents [.byte 3] capturing).schedule = .byte 3 :: [] ∧
    (withEvents [.selDeassert] capturing).schedule = .selDeassert :: [] ∧ capturing.params.syncMode = .edge := by decide

/-- CONSUME asked for, CONSUME with nothing left in the schedule, and an exchange, of a command and of a frame with an
unrecognized opcode. -/
theorem witness_StepRunsTheDecodedCommand :
    (ready.params.syncMode = .edge ∧ ready.rxrdy = true ∧ readyFrame ready = .ok [0xFF] ∧
      decode [0xFF] = .instr (.keepalive []) ∧ ready.schedule = [] ∧
      (withEvents [.consume] ready).schedule = .consume :: []) ∧
    (let s := withEvents [.xfer [0x02, 0x80, 0] 2 .ok] queued
     s.params.syncMode = .queued ∧ s.schedule = .xfer [0x02, 0x80, 0] 2 .ok :: [] ∧ 2 ≤ s.params.rxMax ∧
       decode (([0x02, 0x80, 0] : List Byte).take 2) = .instr (.setBrightness (.full 0x80 []))) ∧
    (let s : State := { ready with mem := ⟨[(0, 0x08)], []⟩ }
     s.params.syncMode = .edge ∧ s.rxrdy = true ∧ readyFrame s = .ok [0x08] ∧ decode [0x08] = .unrecognized 0x08 ∧
       s.schedule = [] ∧ (withEvents [.consume] s).schedule = .consume :: []) ∧
    (let s := withEvents [.xfer [0x08, 0, 7] 2 .ok] queued
     s.params.syncMode = .queued ∧ s.schedule = .xfer [0x08, 0, 7] 2 .ok :: [] ∧ 2 ≤ s.params.rxMax ∧
       decode (([0x08, 0, 7] : List Byte).take 2) = .unrecognized 0x08) :=
  ⟨⟨rfl, rfl, rfl, by decide, rfl, rfl⟩, by decide, ⟨rfl, rfl, rfl, by decide, rfl, rfl⟩, by decide⟩

theorem witness_EmptyExchangeAndTimeoutAreNoOps :
    queued.params.syncMode = .queued ∧
    (withEvents [.xfer [1] 0 .ok] queued).schedule = .xfer [1] 0 .ok :: [] ∧
    (withEvents [.xfer [] 99 .timeout] queued).schedule = .xfer [] 99 .timeout :: [] := by decide

theorem witness_EngineWaitsForAReadyFrame :
    State.reset.rxrdy = false ∧ State.reset.schedule = [] ∧ State.reset.params.syncMode = .edge ∧
    (withEvents [.consume] State.reset).schedule = .consume :: [] := by decide

/-- A frame that fills the buffer to the byte. -/
theorem witness_WireTransactionExecutesItsCommand :
    let i : Instr := .setPixel (.full 4 ⟨10, 20, 30⟩ [])
    let s := withEvents (.selAssert :: ((encode i).map .byte ++ .selDeassert :: .consume :: []))
      (State.resetFor { Params.reference with rxMax := 6 })
    s.params.syncMode = .edge ∧ s.rxrdy = false ∧ i.wellFormed = true ∧ (encode i).length ≤ s.params.rxMax ∧
      s.schedule = .selAssert :: ((encode i).map .byte ++ .selDeassert :: .consume :: []) := by decide

/-! ### Witnesses: invariants and runs -/

theorem witness_ResetStateIsAsSpecified : Params.reference.Valid := by decide

theorem witness_InvariantHoldsAtReset : Params.reference.Valid ∧ big.params.Valid ∧ queued.params.Valid := by decide

/-- A good state with a frame ready. -/
theorem ready_inv (es : List Event) : Inv (withEvents es ready) where
  params := show ready.params.Valid by decide
  mem := show ready.mem.wf ready.params by decide
  config := show ConfigInv ready by decide
  idle := show IdleInv ready by decide
  handoff := show HandoffInv ready by decide
  counters := show CounterInv ready by decide

theorem witness_GoodStatesNeverFault : Inv (withEvents [.consume, .byte 3] ready) := ready_inv _

theorem witness_EveryStepKeepsTheInvariant :
    Inv (withEvents [.consume] ready) ∧ ∃ t, step (withEvents [.consume] ready) = .next t :=
  ⟨ready_inv _, ⟨_, rfl⟩⟩

theorem witness_AdmissibleEventsAlwaysComplete :
    Inv (withEvents [.consume, .selAssert] ready) ∧
    ∀ e ∈ [Event.consume, .selAssert], admissible ready.params e = true :=
  ⟨ready_inv _, by decide⟩

theorem witness_EveryRunFromResetGoesOn :
    queued.params.Valid ∧
    ∀ e ∈ [Event.xfer [3] 1 .ok, .xfer [] 7 .timeout, .report, .powerCycle],
      admissible queued.params e = true := by decide

/-- A CONSUME that renders. -/
theorem witness_NoRenderShowsAStaleColour :
    seen (step { withEvents [.consume] ready with mem := ⟨[(0, 0x03)], [(2, ⟨1, 2, 3⟩)]⟩ }) (fun t => t.trace) =
      some [.render ([Colour.idle, Colour.idle, ⟨1, 2, 3⟩] ++ List.replicate 7 Colour.idle) 255] := by decide

theorem witness_DiagnosticsNeverSteerTheBlock :
    withoutDiagnostics (withEvents [.consume] ready) =
      withoutDiagnostics { withEvents [.consume] ready with txnCount := 7, malformedCount := 3, debug := true } ∧
    (withEvents [.consume] ready).schedule.head? ≠ some .report ∧
    ∃ t, step (withEvents [.consume] ready) = .next t := ⟨by decide, by decide, ⟨_, rfl⟩⟩

/-- A counter about to wrap. -/
theorem witness_CountersMoveByOneAndWrap :
    seen (step { withEvents [.selDeassert] capturing with txnCount := 2 ^ 32 - 1 }) (fun t => t.txnCount) = some 0 ∧
    (withEvents [.selDeassert] capturing).schedule.head? ≠ some .powerCycle := by decide

theorem witness_TransactionCountCountsReceivedFrames :
    receives (withEvents [.selDeassert] capturing) = true ∧
    seen (step (withEvents [.selDeassert] capturing)) (fun t => t.txnCount) = some 1 ∧
    receives (withEvents [.consume] ready) = false ∧
    seen (step (withEvents [.consume] ready)) (fun t => t.txnCount) = some ready.txnCount := by decide

theorem witness_SnapshotReadChangesNoCell :
    (withEvents [.report] ready).schedule = .report :: [] := by decide

theorem witness_PowerCycleKeepsNothing :
    seen (step (withEvents [.powerCycle] { ready with bright := 3, cfgLen := 1 })) id = some State.reset := by decide

/-- An event of the other mode each way, an unknown status, and both bounds of R6. -/
theorem witness_InputsWithoutMeaningAreRefused :
    admissible queued.params .consume = false ∧ admissible ready.params (.xfer [3] 1 .ok) = false ∧
    admissible queued.params (.xfer [3] 1 (.other 9)) = false ∧
    admissible { queued.params with rxMax := 1 } (.xfer [3, 3] 2 .ok) = false ∧
    admissible queued.params (.xfer [3] 2 .ok) = false := by decide

/-- A CONSUME that renders, from a state that no run reaches: its count has just wrapped. -/
theorem witness_EveryStepKeepsTheFrameCountEquation :
    let s : State := { withEvents [.consume] ready with
      params := { Params.reference with cntW := 1 }
      mem := ⟨[(0, 0x03)], []⟩
      trace := [.render [] 0, .render [] 0] }
    s.schedule.head? ≠ some .powerCycle ∧ s.frameCount = (s.trace.countP isRender) % 2 ^ s.params.cntW ∧
    seen (step s) (fun t => (t.frameCount, t.trace.countP isRender)) = some (1, 3) := by decide

end Sys2Proof.Tests
end

section
/-! The cells the capture context owns (R52), what the engine leaves of them, and TXN_COUNT (R24). -/

namespace Sys2Proof.Machine

/-! ### What one completing event is -/

/-- Everything an event that completes can be, with the mode it needs (R4, R214). -/
theorem runEvent_next {e : Event} {s t : State} (h : runEvent e s = .next t) :
    (e = .selAssert ∧ s.params.syncMode = .edge ∧ t = onSelAssert s) ∨
    (∃ b, e = .byte b ∧ s.params.syncMode = .edge ∧ t = onByte b s) ∨
    (e = .selDeassert ∧ s.params.syncMode = .edge ∧ t = onSelDeassert s) ∨
    (e = .consume ∧ s.params.syncMode = .edge ∧ consume s = .next t) ∨
    (∃ buf len status, e = .xfer buf len status ∧ s.params.syncMode = .queued ∧
      onXfer buf len status s = .next t) ∨
    (e = .report ∧ t = emit (.snapshot (snapshotOf s)) s) ∨
    (e = .powerCycle ∧ t = powerOn s) := by
  cases e with
  | selAssert | byte _ | selDeassert | consume | xfer _ _ _ =>
    cases hm : s.params.syncMode <;> simp_all [runEvent, eq_comm]
  | report | powerCycle => simp_all [runEvent, eq_comm]

/-! ### The front end's cells and the execution of a frame -/

/-- `t` has the build, the schedule and every cell of the capture context (R52) as `s` has them. -/
structure SameFrontEnd (s t : State) : Prop where
  params : t.params = s.params
  rx : t.mem.rx = s.mem.rx
  wp : t.wp = s.wp
  armed : t.armed = s.armed
  rxcnt : t.rxcnt = s.rxcnt
  rxrdy : t.rxrdy = s.rxrdy
  txnCount : t.txnCount = s.txnCount
  schedule : t.schedule = s.schedule

namespace SameFrontEnd

theorem refl (s : State) : SameFrontEnd s s := ⟨rfl, rfl, rfl, rfl, rfl, rfl, rfl, rfl⟩

theorem trans {s t u : State} (hst : SameFrontEnd s t) (htu : SameFrontEnd t u) : SameFrontEnd s u where
  params := htu.params.trans hst.params
  rx := htu.rx.trans hst.rx
  wp := htu.wp.trans hst.wp
  armed := htu.armed.trans hst.armed
  rxcnt := htu.rxcnt.trans hst.rxcnt
  rxrdy := htu.rxrdy.trans hst.rxrdy
  txnCount := htu.txnCount.trans hst.txnCount
  schedule := htu.schedule.trans hst.schedule

theorem putFb (fb : List (Nat × Colour)) (s : State) : SameFrontEnd s (putFb fb s) :=
  ⟨rfl, rfl, rfl, rfl, rfl, rfl, rfl, rfl⟩

theorem blankUnaddressed (strips len : Nat) (s : State) : SameFrontEnd s (blankUnaddressed strips len s) :=
  ⟨rfl, rfl, rfl, rfl, rfl, rfl, rfl, rfl⟩

theorem doRender (s : State) : SameFrontEnd s (doRender s) := ⟨rfl, rfl, rfl, rfl, rfl, rfl, rfl, rfl⟩

theorem raiseOutcome (o : FrameOutcome) (s : State) : SameFrontEnd s (raiseOutcome o s) := by
  constructor <;> simp

theorem precheck (f : List Byte) (s : State) : SameFrontEnd s (precheck f s) := by
  constructor <;> simp

end SameFrontEnd

/-- If the outcome is a next state, it has the front end's cells as `s` has them. -/
def KeepsFrontEnd (s : State) (o : Host.Outcome State Fault Refusal) : Prop :=
  ∀ t, o = .next t → SameFrontEnd s t

theorem keepsFrontEnd_next {s t : State} (h : SameFrontEnd s t) : KeepsFrontEnd s (.next t) :=
  fun _ hu => Host.Outcome.next.inj hu ▸ h

theorem keepsFrontEnd_onNext {s : State} {o : Host.Outcome State Fault Refusal} {f : State → State}
    (ho : KeepsFrontEnd s o) (hf : ∀ t, SameFrontEnd t (f t)) : KeepsFrontEnd s (onNext o f) := by
  intro t ht
  obtain ⟨u, hu, rfl⟩ := onNext_eq_next.mp ht
  exact (ho u hu).trans (hf u)

theorem storePixels_keepsFrontEnd (ws : List (Nat × Colour)) (s : State) : KeepsFrontEnd s (storePixels ws s) := by
  intro t ht
  obtain ⟨-, rfl⟩ := storePixels_next ht
  exact .putFb _ s

/-- No command writes a cell of the capture context (R52). -/
theorem exec_keepsFrontEnd (i : Instr) (s : State) : KeepsFrontEnd s (exec i s) := by
  cases i with
  | setPixel ops =>
    show KeepsFrontEnd s (execSetPixel ops s)
    obtain ⟨_, _, he⟩ | ⟨_, _, _, _, _, he⟩ | ⟨_, _, _, _, _, he⟩ := execSetPixel_cases ops s <;> rw [he]
    · exact keepsFrontEnd_next (.raiseOutcome _ s)
    · exact keepsFrontEnd_next (.refl s)
    · exact storePixels_keepsFrontEnd _ s
  | setBrightness ops =>
    show KeepsFrontEnd s (execSetBrightness ops s)
    obtain ⟨_, he⟩ | ⟨_, _, _, he⟩ := execSetBrightness_cases ops s <;> rw [he]
    · exact keepsFrontEnd_next (.raiseOutcome _ s)
    · exact keepsFrontEnd_next ⟨rfl, rfl, rfl, rfl, rfl, rfl, rfl, rfl⟩
  | render tail => exact keepsFrontEnd_next (.doRender s)
  | clear tail => exact keepsFrontEnd_onNext (storePixels_keepsFrontEnd _ s) .doRender
  | setRange ops =>
    show KeepsFrontEnd s (execSetRange ops s)
    obtain ⟨_, _, he, _⟩ | ⟨_, _, _, _, _, he⟩ | ⟨_, _, _, _, _, he⟩ := execSetRange_cases ops s <;> rw [he]
    · exact keepsFrontEnd_next (.raiseOutcome _ s)
    · exact keepsFrontEnd_next (.refl s)
    · exact storePixels_keepsFrontEnd _ s
  | setAll colours tail =>
    show KeepsFrontEnd s (execSetAll colours tail s)
    obtain ⟨_, he⟩ | ⟨_, he⟩ := execSetAll_cases colours tail s <;> rw [he]
    · exact keepsFrontEnd_next (.raiseOutcome _ s)
    · exact keepsFrontEnd_onNext (storePixels_keepsFrontEnd _ s) fun t =>
        (SameFrontEnd.blankUnaddressed _ _ t).trans (.doRender _)
  | reconfigure ops =>
    show KeepsFrontEnd s (execReconfigure ops s)
    obtain ⟨_, _, he⟩ | ⟨_, _, _, _, _, _, he⟩ | ⟨_, _, _, _, _, _, he⟩ := execReconfigure_cases ops s <;> rw [he]
    · exact keepsFrontEnd_next (.raiseOutcome _ s)
    · exact keepsFrontEnd_next (.raiseOutcome _ s)
    · exact keepsFrontEnd_next ⟨rfl, rfl, rfl, rfl, rfl, rfl, rfl, rfl⟩
  | keepalive tail => exact keepsFrontEnd_next ⟨rfl, rfl, rfl, rfl, rfl, rfl, rfl, rfl⟩

/-- Decoding and executing a frame writes no cell of the capture context (R52). -/
theorem runFrame_keepsFrontEnd (f : List Byte) (s : State) : KeepsFrontEnd s (runFrame f s) := by
  unfold runFrame
  cases decode f with
  | empty => exact keepsFrontEnd_next (.raiseOutcome _ s)
  | unrecognized op => exact keepsFrontEnd_next ((SameFrontEnd.precheck f s).trans (.raiseOutcome _ _))
  | instr i => exact fun t ht => (SameFrontEnd.precheck f s).trans (exec_keepsFrontEnd i _ t ht)

/-! ### TXN_COUNT, event by event (R24) -/

theorem onSelDeassert_txnCount (s : State) :
    (onSelDeassert s).txnCount =
      if s.armed ∧ 1 ≤ s.wp then bumpCounter s.params.cntW s.txnCount else s.txnCount := by
  unfold onSelDeassert
  split <;> rfl

theorem consume_txnCount {s t : State} (h : consume s = .next t) : t.txnCount = s.txnCount := by
  rcases consume_cases s with ⟨_, he⟩ | ⟨_, _, _, he⟩ | ⟨_, f, _, he⟩ <;> rw [he] at h
  · rw [← Host.Outcome.next.inj h]
  · cases h
  · obtain ⟨u, hu, rfl⟩ := onNext_eq_next.mp h
    exact (runFrame_keepsFrontEnd f s u hu).txnCount

theorem onXfer_txnCount {buf : List Byte} {len : Nat} {status : ExchangeStatus} {s t : State}
    (h : onXfer buf len status s = .next t) :
    t.txnCount = if status = .ok ∧ 1 ≤ len then bumpCounter s.params.cntW s.txnCount else s.txnCount := by
  rcases onXfer_next h with ⟨rfl, rfl⟩ | ⟨rfl, rfl, rfl⟩ | ⟨rfl, hlen, _, _, hrun⟩
  · simp
  · simp
  · rw [if_pos ⟨rfl, hlen⟩]
    exact (runFrame_keepsFrontEnd _ _ t hrun).txnCount

/-- One event of the schedule other than the power cycle moves TXN_COUNT exactly when it receives a transaction. -/
theorem runEvent_txnCount {e : Event} {rest : List Event} {s t : State} (hs : s.schedule = e :: rest)
    (hne : e ≠ .powerCycle) (h : runEvent e { s with schedule := rest } = .next t) :
    t.txnCount = if receives s = true then bumpCounter s.params.cntW s.txnCount else s.txnCount := by
  rcases runEvent_next h with ⟨rfl, _, rfl⟩ | ⟨b, rfl, _, rfl⟩ | ⟨rfl, _, rfl⟩ | ⟨rfl, _, ht⟩ |
    ⟨buf, len, status, rfl, _, ht⟩ | ⟨rfl, rfl⟩ | ⟨rfl, _⟩
  · simp [receives, hs]
  · simp [receives, hs]
  · simp [receives, hs, onSelDeassert_txnCount]
  · simp [receives, hs, consume_txnCount ht]
  · rw [onXfer_txnCount ht]
    cases status <;> simp [receives, hs]
  · simp [receives, hs]
  · exact absurd rfl hne

/-- A step other than the power cycle moves TXN_COUNT exactly when it receives a transaction. -/
theorem step_txnCount {s t : State} (hne : s.schedule.head? ≠ some .powerCycle) (h : step s = .next t) :
    t.txnCount = if receives s = true then bumpCounter s.params.cntW s.txnCount else s.txnCount := by
  rcases step_cases s with ⟨e, rest, hs, he⟩ | ⟨hs, _, he⟩ | ⟨hs, _, he⟩ <;> rw [he] at h
  · exact runEvent_txnCount hs (fun hp => hne (by simp [hs, hp])) h
  · simp [receives, hs, consume_txnCount h]
  · simp [receives, hs, ← Host.Outcome.next.inj h]

/-- Settles O55: every step by `step_txnCount`, whose content is that only the end edge and the exchange write the
cell, the engine not. -/
theorem transactionCountCountsReceivedFrames : Obligations.TransactionCountCountsReceivedFrames :=
  ⟨fun _ _ hne h => step_txnCount hne h, fun _ => rfl, fun _ => rfl⟩

end Sys2Proof.Machine
end

section
/-! The fields of a frame where the layouts of 30_encoding.md put them: one equation per opcode for `decode`, and one
per layout (long, short, starved) for the decoder of each payload. -/

namespace Sys2Proof.Machine

/-! ### The commands with a multi-byte payload, by their opcode (R83) -/

theorem decode_opSetPixel (payload : List Byte) :
    decode (0x01 :: payload) = .instr (.setPixel (decodePixel payload)) := rfl

theorem decode_opSetRange (payload : List Byte) :
    decode (0x05 :: payload) = .instr (.setRange (decodeRange payload)) := rfl

theorem decode_opSetAll (payload : List Byte) :
    decode (0x06 :: payload) = .instr (.setAll (allColours payload).1 (allColours payload).2) := rfl

theorem decode_opReconfigure (payload : List Byte) :
    decode (0x07 :: payload) = .instr (.reconfigure (decodeReconfigure payload)) := rfl

/-! ### The payload decoders, by the length of the frame (R72, R76, R79) -/

theorem decodePixel_short {payload : List Byte} (h : payload.length + 1 < 6) :
    decodePixel payload = .short payload := by
  unfold decodePixel
  split
  next => simp only [List.length_cons] at h; omega
  next => rfl

theorem decodeRange_short {payload : List Byte} (h : payload.length + 1 < 4) :
    decodeRange payload = .short payload := by
  unfold decodeRange
  split
  next => simp only [List.length_cons] at h; omega
  next => rfl

theorem decodeRange_full (hi lo : Byte) {count : Byte} {colours : List Colour} (tail : List Byte)
    (h : colours.length = count.toNat) :
    decodeRange (hi :: lo :: count :: (colourBytes colours ++ tail)) = .full (u16be hi lo) colours tail := by
  have htake : takeColours count.toNat (colourBytes colours ++ tail) = some (colours, tail) :=
    h ▸ takeColours_colourBytes colours tail
  simp only [decodeRange, htake]

theorem decodeRange_starved (hi lo : Byte) {count : Byte} {data : List Byte} (h : data.length < 3 * count.toNat) :
    decodeRange (hi :: lo :: count :: data) = .starved (u16be hi lo) count data := by
  simp only [decodeRange, takeColours_none.mpr h]

theorem decodeReconfigure_short {payload : List Byte} (h : payload.length + 1 < 4) :
    decodeReconfigure payload = .short payload := by
  unfold decodeReconfigure
  split
  next => simp only [List.length_cons, List.length_nil] at h; omega
  next => simp only [List.length_cons] at h; omega
  next => rfl

/-! ### The obligation -/

/-- The wire form of a list of colours is r, g, b of each in turn (R41). -/
theorem flatMap_rgb_eq_colourBytes (colours : List Colour) :
    (colours.flatMap fun c => [c.r, c.g, c.b]) = colourBytes colours := by
  induction colours with
  | nil => rfl
  | cons c cs ih => simp only [List.flatMap_cons, ih, colourBytes, List.cons_append, List.nil_append]

/-- Settles O4: the witness for each two-byte field is `u16be hi lo`, whose value is `u16be_toNat`; the colours are
read back because `takeColours` and `allColours` invert `colourBytes`. -/
theorem frameFieldsStandWhereTheLayoutsSay : Obligations.FrameFieldsStandWhereTheLayoutsSay := by
  unfold Obligations.FrameFieldsStandWhereTheLayoutsSay
  simp only [decode_opSetPixel, decode_opSetRange, decode_opSetAll, decode_opReconfigure, flatMap_rgb_eq_colourBytes]
  refine ⟨?pixel, ?pixelShort, ?range, ?rangeStarved, ?rangeShort, ?all, ?reconfigure, ?reconfigureDebug,
    ?reconfigureShort⟩
  case pixel => exact fun hi lo _ _ _ _ => ⟨u16be hi lo, u16be_toNat hi lo, rfl⟩
  case pixelShort => exact fun _ h => by rw [decodePixel_short h]
  case range => exact fun hi lo _ _ tail h => ⟨u16be hi lo, u16be_toNat hi lo, by rw [decodeRange_full hi lo tail h]⟩
  case rangeStarved => exact fun hi lo _ _ h => ⟨u16be hi lo, u16be_toNat hi lo, by rw [decodeRange_starved hi lo h]⟩
  case rangeShort => exact fun _ h => by rw [decodeRange_short h]
  case all => exact fun colours _ h => by rw [allColours_colourBytes colours h]
  case reconfigure => exact fun _ hi lo => ⟨u16be hi lo, u16be_toNat hi lo, rfl⟩
  case reconfigureDebug => exact fun _ hi lo _ _ => ⟨u16be hi lo, u16be_toNat hi lo, rfl⟩
  case reconfigureShort => exact fun _ h => by rw [decodeReconfigure_short h]

end Sys2Proof.Machine
end

section
/-! The opcode map (R83, R84): the first byte of a frame selects one of the eight commands, or none. -/

namespace Sys2Proof.Machine

/-! ### The commands not among the multi-byte layouts above, by their opcode (R83) -/

theorem decode_opSetBrightness (payload : List Byte) :
    decode (0x02 :: payload) = .instr (.setBrightness (decodeBrightness payload)) := rfl

theorem decode_opRender (payload : List Byte) : decode (0x03 :: payload) = .instr (.render payload) := rfl

theorem decode_opClear (payload : List Byte) : decode (0x04 :: payload) = .instr (.clear payload) := rfl

theorem decode_opKeepalive (payload : List Byte) : decode (0xFF :: payload) = .instr (.keepalive payload) := rfl

/-! ### The bytes that select no command (R84) -/

/-- A byte that is no command's opcode is unrecognized, whatever follows it. -/
theorem decode_unrecognized_of_forall_opcodeOf_ne {op : Byte} (h : ∀ i, opcodeOf i ≠ op) (payload : List Byte) :
    decode (op :: payload) = .unrecognized op := by
  have hPixel : op ≠ opSetPixel := (h (.setPixel (.short []))).symm
  have hBrightness : op ≠ opSetBrightness := (h (.setBrightness .short)).symm
  have hRender : op ≠ opRender := (h (.render [])).symm
  have hClear : op ≠ opClear := (h (.clear [])).symm
  have hRange : op ≠ opSetRange := (h (.setRange (.short []))).symm
  have hAll : op ≠ opSetAll := (h (.setAll [] [])).symm
  have hReconfigure : op ≠ opReconfigure := (h (.reconfigure (.short []))).symm
  have hKeepalive : op ≠ opKeepalive := (h (.keepalive [])).symm
  simp only [decode, hPixel, hBrightness, hRender, hClear, hRange, hAll, hReconfigure, hKeepalive, if_false]

/-- Every command's opcode is one of 0x01 to 0x07, or 0xFF. -/
theorem opcodeOf_toNat (i : Instr) :
    (1 ≤ (opcodeOf i).toNat ∧ (opcodeOf i).toNat ≤ 0x07) ∨ (opcodeOf i).toNat = 0xFF := by
  cases i <;> simp only [opcodeOf] <;> decide

theorem opcodeOf_ne_of_outside_map {op : Byte} (h : op = 0x00 ∨ (0x08 ≤ op.toNat ∧ op.toNat ≤ 0xFE)) (i : Instr) :
    opcodeOf i ≠ op := by
  rintro rfl
  have hmap := opcodeOf_toNat i
  obtain hzero | ⟨hlo, hhi⟩ := h
  · have : (opcodeOf i).toNat = 0 := by rw [hzero]; rfl
    omega
  · omega

/-- Settles O3: each of the eight opcodes by its own equation for `decode`, and the other 248 bytes because none of
them is the opcode of a command. -/
theorem opcodeByteSelectsTheCommand : Obligations.OpcodeByteSelectsTheCommand := by
  intro op payload
  refine ⟨?pixel, ?brightness, ?render, ?clear, ?range, ?all, ?reconfigure, ?keepalive, ?unrecognized⟩
  case pixel => rintro rfl; exact ⟨_, decode_opSetPixel payload⟩
  case brightness => rintro rfl; exact ⟨_, decode_opSetBrightness payload⟩
  case render => rintro rfl; exact decode_opRender payload
  case clear => rintro rfl; exact decode_opClear payload
  case range => rintro rfl; exact ⟨_, decode_opSetRange payload⟩
  case all => rintro rfl; exact ⟨_, _, decode_opSetAll payload⟩
  case reconfigure => rintro rfl; exact ⟨_, decode_opReconfigure payload⟩
  case keepalive => rintro rfl; exact decode_opKeepalive payload
  case unrecognized =>
    exact fun h => decode_unrecognized_of_forall_opcodeOf_ne (opcodeOf_ne_of_outside_map h) payload

end Sys2Proof.Machine
end

section
/-! The capture context and the exchange (40_frame_synchronizer.md sections 2 and 4), event by event: what each event
does in each of its cases, and the step that takes it. -/

namespace Sys2Proof.Machine

/-! ### One event, case by case (R101, R102, R104, R105, R111, R112) -/

/-- The gate is open. -/
theorem onSelAssert_of_not_ready {s : State} (h : s.rxrdy = false) :
    onSelAssert s = { s with wp := 0, armed := true } := by
  simp [onSelAssert, h]

/-- The gate is closed. -/
theorem onSelAssert_of_ready {s : State} (h : s.rxrdy = true) : onSelAssert s = { s with armed := false } := by
  simp [onSelAssert, h]

theorem onByte_of_armed_of_lt {s : State} (b : Byte) (harmed : s.armed = true) (hlt : s.wp < s.params.rxMax) :
    onByte b s = { putRx (putCell s.mem.rx s.wp b) s with wp := s.wp + 1 } := by
  simp [onByte, harmed, hlt]

theorem onByte_of_not_armed {s : State} (b : Byte) (h : s.armed = false) : onByte b s = s := by
  simp [onByte, h]

theorem onByte_of_full {s : State} (b : Byte) (h : s.params.rxMax ≤ s.wp) : onByte b s = s :=
  if_neg fun hc => absurd hc.2 (Nat.not_lt.mpr h)

theorem onSelDeassert_of_armed_of_pos {s : State} (harmed : s.armed = true) (hpos : 1 ≤ s.wp) :
    onSelDeassert s =
      { s with
        armed := false
        rxcnt := s.wp
        txnCount := bumpCounter s.params.cntW s.txnCount
        rxrdy := true } := by
  simp [onSelDeassert, harmed, hpos]

theorem onSelDeassert_of_empty {s : State} (h : s.wp = 0) : onSelDeassert s = { s with armed := false } := by
  simp [onSelDeassert, h]

/-- An end edge outside a capture has nothing even to disarm. -/
theorem onSelDeassert_of_not_armed {s : State} (h : s.armed = false) : onSelDeassert s = s := by
  calc onSelDeassert s
      = { s with armed := false } := if_neg (by simp [h])
    _ = s := by rw [← h]

/-- No end edge withdraws a published frame. -/
theorem onSelDeassert_rxrdy_of_ready {s : State} (h : s.rxrdy = true) : (onSelDeassert s).rxrdy = true := by
  unfold onSelDeassert
  split
  · rfl
  · exact h

theorem onXfer_timeout (buf : List Byte) (len : Nat) (s : State) : onXfer buf len .timeout s = .next s := rfl

theorem onXfer_ok_zero (buf : List Byte) (s : State) : onXfer buf 0 .ok s = .next s := by
  simp [onXfer]

/-! ### The cells of the capture context (R52, R106) -/

/-- `t` is `s` but for the cells the capture context owns. -/
def SameOutsideCapture (s t : State) : Prop :=
  t = { s with
        mem := ⟨t.mem.rx, s.mem.fb⟩
        wp := t.wp
        armed := t.armed
        rxcnt := t.rxcnt
        rxrdy := t.rxrdy
        txnCount := t.txnCount }

theorem onSelAssert_sameOutsideCapture (s : State) : SameOutsideCapture s (onSelAssert s) := by
  unfold SameOutsideCapture onSelAssert
  split <;> rfl

theorem onByte_sameOutsideCapture (b : Byte) (s : State) : SameOutsideCapture s (onByte b s) := by
  unfold SameOutsideCapture onByte
  split <;> rfl

theorem onSelDeassert_sameOutsideCapture (s : State) : SameOutsideCapture s (onSelDeassert s) := by
  unfold SameOutsideCapture onSelDeassert
  split <;> rfl

/-! ### The step that takes the event -/

section Steps
variable {s : State} {rest : List Event}

theorem step_selAssert (hm : s.params.syncMode = .edge) (hs : s.schedule = .selAssert :: rest) :
    step s = .next (onSelAssert { s with schedule := rest }) := by
  rw [step_of_schedule hs]
  simp [runEvent, hm]

theorem step_byte {b : Byte} (hm : s.params.syncMode = .edge) (hs : s.schedule = .byte b :: rest) :
    step s = .next (onByte b { s with schedule := rest }) := by
  rw [step_of_schedule hs]
  simp [runEvent, hm]

theorem step_selDeassert (hm : s.params.syncMode = .edge) (hs : s.schedule = .selDeassert :: rest) :
    step s = .next (onSelDeassert { s with schedule := rest }) := by
  rw [step_of_schedule hs]
  simp [runEvent, hm]

theorem step_xfer {buf : List Byte} {len : Nat} {status : ExchangeStatus} (hm : s.params.syncMode = .queued)
    (hs : s.schedule = .xfer buf len status :: rest) :
    step s = onXfer buf len status { s with schedule := rest } := by
  rw [step_of_schedule hs]
  simp [runEvent, hm]

end Steps

/-! ### The single events as the spec states them -/

/-- Settles O34: the two sides of the gate. -/
theorem selectAssertArmsUnlessAFrameWaits : Obligations.SelectAssertArmsUnlessAFrameWaits := by
  intro s rest hm hs
  rw [step_selAssert hm hs]
  exact ⟨fun h => congrArg _ (onSelAssert_of_not_ready h), fun h => congrArg _ (onSelAssert_of_ready h)⟩

/-- Settles O35: the read-after-write laws of RXBUF for the stored byte, the two reasons to discard it, and R102's
remark from the handoff invariant. -/
theorem byteIsStoredOnlyWhileArmedAndNotFull : Obligations.ByteIsStoredOnlyWhileArmedAndNotFull := by
  intro s b rest hm hs
  rw [step_byte hm hs]
  refine ⟨fun harmed hlt => ?stored, fun hdiscard => ?discarded, fun hinv harmed => ?gateWasOpen⟩
  case stored =>
    refine ⟨_, congrArg _ (onByte_of_armed_of_lt b harmed hlt), ?_, fun k hk => ?_, rfl⟩
    · exact cellAt_putCell_self s.mem.rx s.wp b
    · exact cellAt_putCell_ne s.mem.rx b hk
  case discarded =>
    obtain hoff | hfull := hdiscard
    · exact congrArg _ (onByte_of_not_armed b hoff)
    · exact congrArg _ (onByte_of_full b hfull)
  case gateWasOpen =>
    obtain ⟨-, -, hdisarmed, -⟩ := hinv
    cases hready : s.rxrdy with
    | false => rfl
    | true => exact absurd harmed (by simp [hdisarmed hready])

/-- Settles O36: the publishing end edge and the two that publish nothing. -/
theorem selectDeassertPublishesANonEmptyCapture : Obligations.SelectDeassertPublishesANonEmptyCapture := by
  intro s rest hm hs
  rw [step_selDeassert hm hs]
  exact ⟨fun harmed hpos => congrArg _ (onSelDeassert_of_armed_of_pos harmed hpos),
    fun _ hempty => congrArg _ (onSelDeassert_of_empty hempty),
    fun hoff => congrArg _ (onSelDeassert_of_not_armed hoff)⟩

/-- Settles O41: each of the three events completes by its step rule, and its frame is `SameOutsideCapture`. -/
theorem captureContextWritesOnlyItsCells : Obligations.CaptureContextWritesOnlyItsCells := by
  rintro s e rest hm (rfl | ⟨b, rfl⟩ | rfl) hs
  · exact ⟨_, step_selAssert hm hs, fun h => by simpa using h, onSelAssert_sameOutsideCapture _⟩
  · exact ⟨_, step_byte hm hs, fun h => by simpa using h, onByte_sameOutsideCapture b _⟩
  · exact ⟨_, step_selDeassert hm hs, fun h => onSelDeassert_rxrdy_of_ready h, onSelDeassert_sameOutsideCapture _⟩

/-- Settles O43: the two returns of the exchange primitive that carry no byte. -/
theorem emptyExchangeAndTimeoutAreNoOps : Obligations.EmptyExchangeAndTimeoutAreNoOps := by
  rintro s buf len rest hm (hs | hs) <;> rw [step_xfer hm hs]
  · exact onXfer_ok_zero buf _
  · exact onXfer_timeout buf len _

end Sys2Proof.Machine
end

section
/-! A whole transaction (R100 to R105, R116): a start edge, bytes and an end edge are the composition of the three
capture operations, and the bytes in between have a closed form on each side of the gate. -/

namespace Sys2Proof.Machine

/-! ### Reading back what was stored -/

theorem cellAt_rxWriteAll_of_lt {bytes : List Byte} {k a : Nat} (h : a < k) (rx : List Host.Cell) :
    cellAt (rxWriteAll rx k bytes) a = cellAt rx a := by
  induction bytes generalizing rx k with
  | nil => rfl
  | cons b bytes ih =>
    calc cellAt (rxWriteAll (putCell rx k b) (k + 1) bytes) a
        = cellAt (putCell rx k b) a := ih (by omega) _
      _ = cellAt rx a := cellAt_putCell_ne rx b (by omega)

theorem rxRead_rxWriteAll {rxMax : Nat} {bytes : List Byte} {k : Nat} (h : k + bytes.length ≤ rxMax)
    (rx : List Host.Cell) : rxRead rxMax (rxWriteAll rx k bytes) k bytes.length = .ok bytes := by
  induction bytes generalizing rx k with
  | nil => rfl
  | cons b bytes ih =>
    simp only [List.length_cons] at h
    have hk : k < rxMax := by omega
    have hfirst : cellAt (rxWriteAll (putCell rx k b) (k + 1) bytes) k = some b := by
      rw [cellAt_rxWriteAll_of_lt (by omega), cellAt_putCell_self]
    have hrest := ih (k := k + 1) (by omega) (putCell rx k b)
    simp [rxWriteAll, rxRead, hk, hfirst, hrest, Except.map]

/-! ### The bytes of one transaction -/

/-- `BYTE` once for each byte of a list. -/
def onBytes : List Byte → State → State
  | [], s => s
  | b :: bytes, s => onBytes bytes (onByte b s)

/-- Outside a capture every byte is discarded (R102, R116). -/
theorem onBytes_of_not_armed {s : State} (h : s.armed = false) (bytes : List Byte) : onBytes bytes s = s := by
  induction bytes with
  | nil => rfl
  | cons b bytes ih => rw [onBytes, onByte_of_not_armed b h, ih]

/-- Inside a capture the bytes that still fit are stored from WP on and the later ones discarded (R102, R103). -/
theorem onBytes_of_armed {s : State} (h : s.armed = true) (bytes : List Byte) :
    onBytes bytes s =
      { putRx (rxWriteAll s.mem.rx s.wp (bytes.take (s.params.rxMax - s.wp))) s with
        wp := s.wp + min bytes.length (s.params.rxMax - s.wp) } := by
  induction bytes generalizing s with
  | nil => simp [onBytes, rxWriteAll, putRx]
  | cons b bytes ih =>
    rw [onBytes]
    by_cases hlt : s.wp < s.params.rxMax
    · obtain ⟨room, hroom⟩ : ∃ room, s.params.rxMax = s.wp + 1 + room := Nat.exists_eq_add_of_le hlt
      rw [onByte_of_armed_of_lt b h hlt, ih (by simpa using h)]
      have hnow : s.params.rxMax - s.wp = room + 1 := by omega
      have hthen : s.params.rxMax - (s.wp + 1) = room := by omega
      have hwp : s.wp + 1 + min bytes.length room = s.wp + min (bytes.length + 1) (room + 1) := by omega
      simp [putRx, rxWriteAll, hnow, hthen, hwp]
    · have hnone : s.params.rxMax - s.wp = 0 := by omega
      rw [onByte_of_full b (by omega), ih h]
      simp [hnone]

/-! ### The events of one transaction, step by step

The capture operations do not look at the events to come, so the used-up part of the schedule can be taken off first. -/

theorem onSelAssert_schedule_comm (es : List Event) (s : State) :
    onSelAssert { s with schedule := es } = { onSelAssert s with schedule := es } := by
  unfold onSelAssert
  split <;> rfl

theorem onByte_schedule_comm (b : Byte) (es : List Event) (s : State) :
    onByte b { s with schedule := es } = { onByte b s with schedule := es } := by
  unfold onByte
  split <;> rfl

theorem onBytes_schedule_comm (bytes : List Byte) (es : List Event) (s : State) :
    onBytes bytes { s with schedule := es } = { onBytes bytes s with schedule := es } := by
  induction bytes generalizing s with
  | nil => rfl
  | cons b bytes ih => rw [onBytes, onByte_schedule_comm, ih, onBytes]

theorem onBytes_params (bytes : List Byte) (s : State) : (onBytes bytes s).params = s.params := by
  induction bytes generalizing s with
  | nil => rfl
  | cons b bytes ih => rw [onBytes, ih, onByte_params]

theorem runSteps_bytes {bytes : List Byte} {rest : List Event} {s : State} (hm : s.params.syncMode = .edge)
    (hs : s.schedule = bytes.map .byte ++ rest) :
    runSteps bytes.length s = .next { onBytes bytes s with schedule := rest } := by
  induction bytes generalizing s with
  | nil =>
    subst hs
    rfl
  | cons b bytes ih =>
    rw [List.length_cons, runSteps_of_next (step_byte hm hs), ih (by simpa using hm) (by simp),
      onByte_schedule_comm, onBytes_schedule_comm, onBytes]

/-- One transaction is the composition of the capture operations. -/
theorem runSteps_transaction {bytes : List Byte} {rest : List Event} {s : State} (hm : s.params.syncMode = .edge)
    (hs : s.schedule = .selAssert :: (bytes.map .byte ++ .selDeassert :: rest)) :
    runSteps (bytes.length + 2) s =
      .next (onSelDeassert (onBytes bytes (onSelAssert { s with schedule := rest }))) := by
  have hbytes := runSteps_bytes (bytes := bytes) (rest := .selDeassert :: rest)
    (s := onSelAssert { s with schedule := bytes.map .byte ++ .selDeassert :: rest }) (by simpa using hm) (by simp)
  rw [runSteps_of_next (k := bytes.length + 1) (step_selAssert hm hs), runSteps_add _ 1 hbytes,
    runSteps_of_next (step_selDeassert (by simpa [onBytes_params] using hm) rfl), runSteps_zero]
  simp only [onSelAssert_schedule_comm, onBytes_schedule_comm]

/-! ### The two sides of the gate -/

/-- A transaction of at least one byte through the open gate leaves the front end with its first RX_MAX bytes
published. -/
theorem transaction_of_not_ready {bytes : List Byte} {s : State} (hrdy : s.rxrdy = false) (hmax : 1 ≤ s.params.rxMax)
    (hne : bytes ≠ []) :
    onSelDeassert (onBytes bytes (onSelAssert s)) =
      { putRx (rxWriteAll s.mem.rx 0 (bytes.take s.params.rxMax)) s with
        wp := min bytes.length s.params.rxMax
        armed := false
        rxcnt := min bytes.length s.params.rxMax
        rxrdy := true
        txnCount := bumpCounter s.params.cntW s.txnCount } := by
  have hlen : 1 ≤ bytes.length := List.length_pos_iff.mpr hne
  have hcaptured : onBytes bytes (onSelAssert s) =
      { putRx (rxWriteAll s.mem.rx 0 (bytes.take s.params.rxMax)) s with
        wp := min bytes.length s.params.rxMax
        armed := true } := by
    rw [onSelAssert_of_not_ready hrdy, onBytes_of_armed rfl]
    simp [putRx]
  rw [hcaptured, onSelDeassert_of_armed_of_pos rfl (Nat.le_min.mpr ⟨hlen, hmax⟩)]
  rfl

/-- A transaction at the closed gate only disarms. -/
theorem transaction_of_ready {s : State} (hrdy : s.rxrdy = true) (bytes : List Byte) :
    onSelDeassert (onBytes bytes (onSelAssert s)) = { s with armed := false } := by
  rw [onSelAssert_of_ready hrdy, onBytes_of_not_armed rfl, onSelDeassert_of_not_armed rfl]

/-- Settles O37: the run is `transaction_of_not_ready`, and CONSUME reads back what it stored. -/
theorem wholeTransactionIsPublishedTruncated : Obligations.WholeTransactionIsPublishedTruncated := by
  intro s bytes rest hm hrdy hmax hne hs
  refine ⟨_, (runSteps_transaction hm hs).trans (congrArg _ (transaction_of_not_ready hrdy hmax hne)), ?frame, rfl⟩
  case frame =>
    have hread := rxRead_rxWriteAll (k := 0) (bytes := bytes.take s.params.rxMax) (rxMax := s.params.rxMax)
      (by simp) s.mem.rx
    rw [List.length_take, Nat.min_comm] at hread
    exact hread

/-- Settles O38: the run is `transaction_of_ready`. -/
theorem gatedTransactionLeavesNoTrace : Obligations.GatedTransactionLeavesNoTrace := by
  intro s bytes rest hm hrdy hs
  rw [runSteps_transaction hm hs, transaction_of_ready (s := { s with schedule := rest }) hrdy]

end Sys2Proof.Machine
end

section
/-! The published frame between the step that publishes it and the CONSUME that takes it (R107). -/

namespace Sys2Proof.Machine

/-- `t` has everything a frame is read from as `s` has it. -/
structure SameFrame (s t : State) : Prop where
  params : t.params = s.params
  rx     : t.mem.rx = s.mem.rx
  rxcnt  : t.rxcnt = s.rxcnt

theorem SameFrame.readyFrame_eq {s t : State} (h : SameFrame s t) : readyFrame t = readyFrame s := by
  unfold readyFrame
  rw [h.params, h.rx, h.rxcnt]

/-- A CONSUME that takes a frame clears RXRDY (R109). -/
theorem consume_clears_ready {s t : State} (hrdy : s.rxrdy = true) (h : consume s = .next t) : t.rxrdy = false := by
  rcases consume_cases s with ⟨hoff, _⟩ | ⟨_, _, _, he⟩ | ⟨_, f, _, he⟩
  · exact absurd hrdy (by simp [hoff])
  · cases he.symm.trans h
  · obtain ⟨u, -, rfl⟩ := onNext_eq_next.mp (he.symm.trans h)
    rfl

/-- While a frame is ready nothing is being captured, so an event either leaves what the frame is read from alone or
clears RXRDY. -/
theorem runEvent_keeps_frame {e : Event} {s t : State} (hm : s.params.syncMode = .edge) (harmed : s.armed = false)
    (hrdy : s.rxrdy = true) (h : runEvent e s = .next t) (hstill : t.rxrdy = true) : SameFrame s t := by
  rcases runEvent_next h with ⟨-, -, rfl⟩ | ⟨b, -, -, rfl⟩ | ⟨-, -, rfl⟩ | ⟨-, -, ht⟩ |
    ⟨_, _, _, -, hqueued, -⟩ | ⟨-, rfl⟩ | ⟨-, rfl⟩
  · exact ⟨by simp, by simp, by simp⟩
  · rw [onByte_of_not_armed b harmed]
    exact ⟨rfl, rfl, rfl⟩
  · rw [onSelDeassert_of_not_armed harmed]
    exact ⟨rfl, rfl, rfl⟩
  · exact absurd hstill (by simp [consume_clears_ready hrdy ht])
  · exact absurd (hm.symm.trans hqueued) (by decide)
  · exact ⟨rfl, rfl, rfl⟩
  · exact absurd hstill Bool.false_ne_true

/-- A step that finds a frame ready and leaves one ready leaves the same one. -/
theorem step_keeps_frame {s t : State} (hinv : HandoffInv s) (hrdy : s.rxrdy = true) (h : step s = .next t)
    (hstill : t.rxrdy = true) : SameFrame s t := by
  obtain ⟨-, -, hdisarmed, -, -, -, hqueuedIdle⟩ := hinv
  have hm : s.params.syncMode = .edge := by
    cases hmode : s.params.syncMode with
    | edge => rfl
    | queued =>
      obtain ⟨-, -, -, hnone⟩ := hqueuedIdle hmode
      exact absurd hrdy (by simp [hnone])
  rcases step_cases s with ⟨e, rest, -, he⟩ | ⟨-, -, he⟩ | ⟨-, hqueued, -⟩
  · obtain ⟨hparams, hrx, hrxcnt⟩ :=
      runEvent_keeps_frame (s := { s with schedule := rest }) hm (hdisarmed hrdy) hrdy (he.symm.trans h) hstill
    exact ⟨hparams, hrx, hrxcnt⟩
  · exact absurd hstill (by simp [consume_clears_ready hrdy (he.symm.trans h)])
  · exact absurd (hm.symm.trans hqueued) (by decide)

/-- Settles O40: the count and the cells by `step_keeps_frame`, and with them the frame. -/
theorem readyFrameIsFrozen : Obligations.ReadyFrameIsFrozen := by
  intro s t hinv hrdy h hstill
  have hsame := step_keeps_frame hinv hrdy h hstill
  exact ⟨hsame.rxcnt, fun k _ => by rw [hsame.rx], hsame.readyFrame_eq⟩

end Sys2Proof.Machine
end

section
/-! The decoder around the commands (41_command_decoder.md): the zero-payload pre-check and the dispatch after it (R131,
R132, R135), and KEEPALIVE (R134). -/

namespace Sys2Proof.Machine

/-! ### The pre-check (R131)

The model takes the bitwise OR of the payload; no bit of it is set exactly when every byte is zero. -/

theorem foldl_or_eq_zero_iff {payload : List Byte} {acc : Byte} :
    payload.foldl (· ||| ·) acc = 0 ↔ acc = 0 ∧ ∀ b ∈ payload, b = 0 := by
  induction payload generalizing acc with
  | nil => simp
  | cons b payload ih =>
    calc (b :: payload).foldl (· ||| ·) acc = 0
        ↔ (acc ||| b) = 0 ∧ ∀ c ∈ payload, c = 0 := ih
      _ ↔ acc = 0 ∧ ∀ c ∈ b :: payload, c = 0 := by
        rw [List.forall_mem_cons, ← and_assoc]
        exact and_congr_left' BitVec.or_eq_zero_iff

theorem payloadOr_eq_zero_iff {payload : List Byte} : payloadOr payload = 0 ↔ ∀ b ∈ payload, b = 0 :=
  foldl_or_eq_zero_iff.trans (and_iff_right rfl)

theorem zeroPayload_cons_iff {exempt : List Byte} {op : Byte} {payload : List Byte} :
    zeroPayload exempt (op :: payload) = true ↔ payload ≠ [] ∧ op ∉ exempt ∧ ∀ b ∈ payload, b = 0 := by
  cases payload with
  | nil => simp [zeroPayload]
  | cons b payload =>
    have hexempt : (!exempt.contains op) = true ↔ op ∉ exempt := by simp
    calc zeroPayload exempt (op :: b :: payload) = true
        ↔ op ∉ exempt ∧ ∀ c ∈ b :: payload, c = 0 := by
          simp only [zeroPayload, Bool.and_eq_true, hexempt, decide_eq_true_eq, payloadOr_eq_zero_iff]
      _ ↔ b :: payload ≠ [] ∧ op ∉ exempt ∧ ∀ c ∈ b :: payload, c = 0 :=
          (and_iff_right (List.cons_ne_nil b payload)).symm

theorem precheck_of_zeroPayload {f : List Byte} {s : State} (h : zeroPayload s.params.zpExempt f = true) :
    precheck f s = emit (.log (.zeroPayload (f.headD 0) f.length))
      { s with zpayCount := bumpCounter s.params.cntW s.zpayCount } :=
  if_pos h

theorem precheck_of_not_zeroPayload {f : List Byte} {s : State} (h : ¬ zeroPayload s.params.zpExempt f = true) :
    precheck f s = s :=
  if_neg h

/-! ### The dispatch (R132, R135) -/

theorem runFrame_of_decode_instr {f : List Byte} {i : Instr} (h : decode f = .instr i) (s : State) :
    runFrame f s = exec i (precheck f s) := by
  simp only [runFrame, h]

theorem runFrame_of_decode_unrecognized {f : List Byte} {op : Byte} (h : decode f = .unrecognized op) (s : State) :
    runFrame f s = .next (raiseOutcome (.unknownOpcode op f.length) (precheck f s)) := by
  simp only [runFrame, h]

/-- Settles O11: the flagged frames are those of `zeroPayload_cons_iff`, the unflagged ones its negation, and the
dispatch goes by `decode` alone. -/
theorem precheckMarksAllZeroPayloads : Obligations.PrecheckMarksAllZeroPayloads := by
  intro op payload s
  refine ⟨fun hzero => ?flagged, fun hother => ?unflagged, fun i hi => ?recognized, fun op' hop => ?unrecognized⟩
  case flagged => exact precheck_of_zeroPayload (zeroPayload_cons_iff.mpr hzero)
  case unflagged =>
    refine precheck_of_not_zeroPayload fun hflag => ?_
    obtain ⟨hne, hexempt, hzero⟩ := zeroPayload_cons_iff.mp hflag
    obtain hnil | hmem | ⟨b, hb, hbit⟩ := hother
    · exact hne hnil
    · exact hexempt hmem
    · exact hbit (hzero b hb)
  case recognized => exact runFrame_of_decode_instr hi s
  case unrecognized => exact runFrame_of_decode_unrecognized hop s

/-! ### KEEPALIVE (R134) -/

theorem exec_keepalive (tail : List Byte) (s : State) :
    exec (.keepalive tail) s = .next { s with status := !s.status } := rfl

theorem exec_keepalive_restores (tail : List Byte) (s : State) :
    exec (.keepalive tail) { s with status := !s.status } = .next s := by
  rw [exec_keepalive, Bool.not_not]

/-- Settles O20: the opcode 0xFF by its equation for `decode`, the effect and its inverse by the two above. -/
theorem keepaliveTogglesTheIndicator : Obligations.KeepaliveTogglesTheIndicator :=
  fun s tail tail' =>
    ⟨decode_opKeepalive tail, exec_keepalive tail s, _, exec_keepalive tail s, exec_keepalive_restores tail' s⟩

end Sys2Proof.Machine
end

section
/-! The address translator (42_address_translator.md). A logical pixel is a strip `a` and an offset `o` in it, numbered
`a * L + o`; its slot is `a * MAX_LEDS + o`. Both numbers determine the pair, in the same lexicographic order, and every
rule of the translator follows from that. -/

namespace Sys2Proof.Machine

/-! ### A strip and an offset as one number -/

theorem mul_add_div_mod_of_lt {k o : Nat} (a : Nat) (ho : o < k) : (a * k + o) / k = a ∧ (a * k + o) % k = o :=
  (Nat.div_mod_unique (Nat.zero_lt_of_lt ho)).mpr ⟨by rw [Nat.add_comm, Nat.mul_comm], ho⟩

theorem mul_add_lt_mul_add_iff {k a b o q : Nat} (ho : o < k) (hq : q < k) :
    a * k + o < b * k + q ↔ a < b ∨ (a = b ∧ o < q) := by
  have row_le {a b : Nat} (hab : a < b) : a * k + k ≤ b * k := Nat.succ_mul a k ▸ Nat.mul_le_mul_right k hab
  obtain hab | rfl | hba := Nat.lt_trichotomy a b
  · have := row_le hab
    omega
  · omega
  · have := row_le hba
    omega

/-! ### The translation (R150, R151) -/

section Translation
variable {s : State} {i a o p : Nat}

theorem slot_of_div_le (h : i / s.cfgLen.toNat ≤ s.cfgStrips.toNat - 1) :
    slot s i = i / s.cfgLen.toNat * s.params.maxLeds + i % s.cfgLen.toNat := if_pos h

theorem slot_of_lt_div (h : s.cfgStrips.toNat - 1 < i / s.cfgLen.toNat) :
    slot s i = (s.cfgStrips.toNat - 1) * s.params.maxLeds + (s.cfgLen.toNat - 1) := if_neg (Nat.not_le.mpr h)

/-- The guard of the clamp is the index check of the callers (R151). -/
theorem lt_div_iff_total_le (hc : ConfigInv s) : s.cfgStrips.toNat - 1 < i / s.cfgLen.toNat ↔ total s ≤ i := by
  obtain ⟨⟨hS, -⟩, hL, -⟩ := hc
  rw [total, ← Nat.le_div_iff_mul_le hL]
  omega

/-- Every index below TOTAL is a pixel of an active strip. -/
theorem exists_eq_mul_add_of_lt_total (hi : i < total s) :
    ∃ a o, a < s.cfgStrips.toNat ∧ o < s.cfgLen.toNat ∧ i = a * s.cfgLen.toNat + o := by
  have hL : 0 < s.cfgLen.toNat := Nat.pos_of_mul_pos_left (Nat.zero_lt_of_lt hi)
  exact ⟨i / s.cfgLen.toNat, i % s.cfgLen.toNat, (Nat.div_lt_iff_lt_mul hL).mpr hi, Nat.mod_lt i hL,
    (Nat.div_add_mod' i _).symm⟩

theorem mul_add_lt_total (ha : a < s.cfgStrips.toNat) (ho : o < s.cfgLen.toNat) :
    a * s.cfgLen.toNat + o < total s :=
  (Nat.div_lt_iff_lt_mul (Nat.zero_lt_of_lt ho)).mp ((mul_add_div_mod_of_lt a ho).1.symm ▸ ha)

theorem slot_mul_add (ha : a < s.cfgStrips.toNat) (ho : o < s.cfgLen.toNat) :
    slot s (a * s.cfgLen.toNat + o) = a * s.params.maxLeds + o := by
  obtain ⟨hdiv, hmod⟩ := mul_add_div_mod_of_lt a ho
  rw [slot_of_div_le (by omega), hdiv, hmod]

/-- Beyond TOTAL every index maps as the last pixel does (R151, R154). -/
theorem slot_of_total_le (hc : ConfigInv s) (hi : total s ≤ i) : slot s i = slot s (total s - 1) := by
  have ⟨⟨hS, _⟩, hL, _⟩ := hc
  have hlast : total s - 1 = (s.cfgStrips.toNat - 1) * s.cfgLen.toNat + (s.cfgLen.toNat - 1) := by
    rw [total, Nat.sub_one_mul]
    have := Nat.le_mul_of_pos_left s.cfgLen.toNat hS
    omega
  rw [slot_of_lt_div ((lt_div_iff_total_le hc).mpr hi), hlast, slot_mul_add (by omega) (by omega)]

/-- The translation keeps the order of the pixels (R155). -/
theorem slot_lt_slot (hc : ConfigInv s) {j : Nat} (hij : i < j) (hj : j < total s) : slot s i < slot s j := by
  obtain ⟨-, -, hLM⟩ := hc
  obtain ⟨a, o, ha, ho, rfl⟩ := exists_eq_mul_add_of_lt_total (hij.trans hj)
  obtain ⟨b, q, hb, hq, rfl⟩ := exists_eq_mul_add_of_lt_total hj
  rw [slot_mul_add ha ho, slot_mul_add hb hq, mul_add_lt_mul_add_iff (by omega) (by omega)]
  exact (mul_add_lt_mul_add_iff ho hq).mp hij

/-! ### The addressable slots (R153) -/

theorem addressableNow_iff :
    addressableNow s p = true ↔ p / s.params.maxLeds < s.cfgStrips.toNat ∧ p % s.params.maxLeds < s.cfgLen.toNat := by
  simp [addressableNow, addressable]

theorem addressableNow_iff_exists (hc : ConfigInv s) :
    addressableNow s p = true ↔
      ∃ a o, a < s.cfgStrips.toNat ∧ o < s.cfgLen.toNat ∧ p = a * s.params.maxLeds + o := by
  obtain ⟨-, -, hLM⟩ := hc
  rw [addressableNow_iff]
  constructor
  · rintro ⟨ha, ho⟩
    exact ⟨_, _, ha, ho, (Nat.div_add_mod' p _).symm⟩
  · rintro ⟨a, o, ha, ho, rfl⟩
    obtain ⟨hdiv, hmod⟩ := mul_add_div_mod_of_lt a (ho.trans_le hLM)
    exact ⟨hdiv.symm ▸ ha, hmod.symm ▸ ho⟩

theorem addressableNow_iff_exists_slot (hc : ConfigInv s) :
    addressableNow s p = true ↔ ∃ i < total s, slot s i = p := by
  rw [addressableNow_iff_exists hc]
  constructor
  · rintro ⟨a, o, ha, ho, rfl⟩
    exact ⟨_, mul_add_lt_total ha ho, slot_mul_add ha ho⟩
  · rintro ⟨i, hi, rfl⟩
    obtain ⟨a, o, ha, ho, rfl⟩ := exists_eq_mul_add_of_lt_total hi
    exact ⟨a, o, ha, ho, slot_mul_add ha ho⟩

/-- With the clamp, every index at all maps to an addressable slot. -/
theorem addressableNow_slot (hc : ConfigInv s) (i : Nat) : addressableNow s (slot s i) = true := by
  rw [addressableNow_iff_exists_slot hc]
  obtain hi | hi := Nat.lt_or_ge i (total s)
  · exact ⟨i, hi, rfl⟩
  · have ⟨⟨hS, _⟩, hL, _⟩ := hc
    have hpos : 0 < total s := Nat.mul_pos hS hL
    exact ⟨total s - 1, by omega, (slot_of_total_le hc hi).symm⟩

theorem lt_nslots_of_addressableNow (hc : ConfigInv s) (h : addressableNow s p = true) : p < s.params.nslots := by
  obtain ⟨⟨-, hS⟩, hL, hLM⟩ := hc
  obtain ⟨hdiv, -⟩ := addressableNow_iff.mp h
  exact (Nat.div_lt_iff_lt_mul (hL.trans hLM)).mp (hdiv.trans_le hS)

theorem slot_lt_nslots (hc : ConfigInv s) (i : Nat) : slot s i < s.params.nslots :=
  lt_nslots_of_addressableNow hc (addressableNow_slot hc i)

/-! ### The inverse (R154) -/

theorem logicalIn_mul_add {maxLeds : Nat} (len a : Nat) (ho : o < maxLeds) :
    logicalIn maxLeds len (a * maxLeds + o) = a * len + o := by
  obtain ⟨hdiv, hmod⟩ := mul_add_div_mod_of_lt a ho
  rw [logicalIn, hdiv, hmod]

theorem logicalIn_slot (hc : ConfigInv s) (hi : i < total s) :
    logicalIn s.params.maxLeds s.cfgLen.toNat (slot s i) = i := by
  obtain ⟨-, -, hLM⟩ := hc
  obtain ⟨a, o, ha, ho, rfl⟩ := exists_eq_mul_add_of_lt_total hi
  rw [slot_mul_add ha ho, logicalIn_mul_add _ _ (ho.trans_le hLM)]

theorem slot_logicalIn (hc : ConfigInv s) (h : addressableNow s p = true) :
    slot s (logicalIn s.params.maxLeds s.cfgLen.toNat p) = p := by
  obtain ⟨i, hi, rfl⟩ := (addressableNow_iff_exists_slot hc).mp h
  rw [logicalIn_slot hc hi]

theorem slot_injective_below_total (hc : ConfigInv s) {j : Nat} (hi : i < total s) (hj : j < total s)
    (h : slot s i = slot s j) : i = j := by
  rw [← logicalIn_slot hc hi, h, logicalIn_slot hc hj]

/-- The addressable slots of the buffer are the slots of the pixels, each once. -/
theorem addressable_slots_perm (hc : ConfigInv s) :
    ((List.range s.params.nslots).filter fun p => addressableNow s p).Perm ((List.range (total s)).map (slot s)) := by
  refine (List.perm_ext_iff_of_nodup (List.nodup_range.filter _) ?nodup).mpr fun p => ?mem
  case nodup =>
    exact List.Nodup.map_on (fun i hi j hj =>
      slot_injective_below_total hc (List.mem_range.mp hi) (List.mem_range.mp hj)) List.nodup_range
  case mem =>
    simp only [List.mem_filter, List.mem_map, List.mem_range, ← addressableNow_iff_exists_slot hc]
    exact and_iff_right_of_imp (lt_nslots_of_addressableNow hc)

end Translation

/-! ### The obligations -/

/-- Settles O6: the two branches of the translation, and the clamp's guard as the callers' index check. -/
theorem slotFollowsTheTranslationFormula : Obligations.SlotFollowsTheTranslationFormula :=
  fun _ _ hc => ⟨slot_of_div_le, slot_of_lt_div, lt_div_iff_total_le hc⟩

/-- Settles O7: every index maps to an addressable slot, and those lie in the buffer. -/
theorem slotStaysInsideTheFrameBuffer : Obligations.SlotStaysInsideTheFrameBuffer :=
  fun _ i hc => ⟨Nat.le_sub_one_of_lt (slot_lt_nslots hc i), slot_lt_nslots hc i⟩

/-- Settles O8: the three descriptions of the addressable slots, and their number by `addressable_slots_perm`. -/
theorem addressableSlotsAreTheImageOfSlot : Obligations.AddressableSlotsAreTheImageOfSlot := by
  intro s hc
  refine ⟨fun _ => addressableNow_iff_exists hc, fun _ => addressableNow_iff_exists_slot hc,
    fun _ => addressableNow_iff, ?count⟩
  case count =>
    rw [(addressable_slots_perm hc).length_eq, List.length_map, List.length_range, total]

/-- Settles O9: the inverse on both sides, injectivity from it, and the clamp. -/
theorem slotIsInjectiveWithAnInverse : Obligations.SlotIsInjectiveWithAnInverse :=
  fun _ hc => ⟨fun _ _ => slot_injective_below_total hc, fun _ => logicalIn_slot hc, fun _ => slot_logicalIn hc,
    fun _ => slot_of_total_le hc⟩

/-- Settles O10: the pairs of strip and offset have one lexicographic order, whatever the length of a row. -/
theorem slotKeepsTheLogicalOrder : Obligations.SlotKeepsTheLogicalOrder :=
  fun _ _ _ hc => slot_lt_slot hc

end Sys2Proof.Machine
end

section
/-! The commands that write pixels or render (43_framebuffer_commands.md): what a row of pixel writes and a render leave,
then each command's completing case as one equation, then its obligation. -/

namespace Sys2Proof.Machine

/-! ### A rejected frame and a render (R161, R202) -/

theorem raiseOutcome_malformed (op : Byte) (n expected : Nat) (s : State) :
    raiseOutcome (.malformed op n expected) s =
      { s with
        malformedCount := (s.malformedCount + 1) % 2 ^ s.params.cntW
        trace := s.trace ++ [.log (.malformed op n expected)] } := rfl

theorem doRender_lastRenderDur_lt (s : State) : (doRender s).lastRenderDur < 2 ^ s.params.durW :=
  (Config.renderDuration s.params.durW s.draws).isLt

/-- What a render after a change of the frame buffer alone does: the new buffer, one RENDER event of it, the duration
and the frame count. -/
theorem doRender_of_eq_putFb {s u : State} (h : u = putFb u.mem.fb s) :
    doRender u =
      { s with
        mem := ⟨s.mem.rx, (doRender u).mem.fb⟩
        trace := s.trace ++ [.render (fbPixels (doRender u)) s.bright]
        lastRenderDur := (doRender u).lastRenderDur
        draws := s.draws + 1
        frameCount := (s.frameCount + 1) % 2 ^ s.params.cntW } := by
  rw [h]
  rfl

/-! ### What a command's writes leave in the frame buffer -/

section Writes
variable {s : State} {start k p : Nat} {colours : List Colour}

theorem rowWrites_lt_nslots (hc : ConfigInv s) (start : Nat) (colours : List Colour) :
    ∀ w ∈ rowWrites s start colours, w.1 < s.params.nslots := by
  intro w hw
  obtain ⟨k, -, rfl⟩ := mem_rowWrites.mp hw
  exact slot_lt_nslots hc (start + k)

theorem clearWrites_lt_nslots (hc : ConfigInv s) : ∀ w ∈ clearWrites s, w.1 < s.params.nslots := by
  intro w hw
  obtain ⟨i, -, rfl⟩ := mem_clearWrites.mp hw
  exact slot_lt_nslots hc i

/-- A row that ends within TOTAL writes each of its slots once, so each holds its own colour afterwards. -/
theorem fbRead_rowWrites_slot (hc : ConfigInv s) (hfit : start + colours.length ≤ total s) (hk : k < colours.length)
    (fb : List (Nat × Colour)) :
    fbRead (fbWriteAll fb (rowWrites s start colours)) (slot s (start + k)) = colours[k] := by
  refine fbRead_fbWriteAll_of_mem (mem_rowWrites.mpr ⟨k, hk, rfl⟩) (fun w hw heq => ?_) fb
  obtain ⟨j, hj, rfl⟩ := mem_rowWrites.mp hw
  have hjk : start + j = start + k := slot_injective_below_total hc (by omega) (by omega) heq
  obtain rfl : j = k := by omega
  rfl

theorem fbRead_rowWrites_of_ne (h : ∀ k < colours.length, slot s (start + k) ≠ p) (fb : List (Nat × Colour)) :
    fbRead (fbWriteAll fb (rowWrites s start colours)) p = fbRead fb p := by
  refine fbRead_fbWriteAll_of_not_mem (fun w hw => ?_) fb
  obtain ⟨k, hk, rfl⟩ := mem_rowWrites.mp hw
  exact h k hk

theorem fbRead_clearWrites_slot (hk : k < total s) (fb : List (Nat × Colour)) :
    fbRead (fbWriteAll fb (clearWrites s)) (slot s k) = Colour.idle := by
  refine fbRead_fbWriteAll_of_mem (mem_clearWrites.mpr ⟨k, hk, rfl⟩) (fun w hw _ => ?_) fb
  obtain ⟨j, -, rfl⟩ := mem_clearWrites.mp hw
  rfl

theorem fbRead_clearWrites_of_ne (h : ∀ i < total s, slot s i ≠ p) (fb : List (Nat × Colour)) :
    fbRead (fbWriteAll fb (clearWrites s)) p = fbRead fb p := by
  refine fbRead_fbWriteAll_of_not_mem (fun w hw => ?_) fb
  obtain ⟨i, hi, rfl⟩ := mem_clearWrites.mp hw
  exact h i hi

end Writes

/-! ### SET_PIXEL (R162) -/

theorem exec_setPixel_short (payload : List Byte) (s : State) :
    exec (.setPixel (.short payload)) s =
      .next (raiseOutcome (.malformed 0x01 (1 + payload.length) 6) s) := rfl

theorem exec_setPixel_of_total_le {index : Half} {s : State} (h : total s ≤ index.toNat) (colour : Colour)
    (tail : List Byte) : exec (.setPixel (.full index colour tail)) s = .next s := if_pos h

theorem exec_setPixel_of_lt_total {index : Half} {s : State} (hc : ConfigInv s) (h : index.toNat < total s)
    (colour : Colour) (tail : List Byte) :
    exec (.setPixel (.full index colour tail)) s =
      .next (putFb (fbWrite s.mem.fb (slot s index.toNat) colour) s) := by
  have hexists : ∀ w ∈ [(slot s index.toNat, colour)], w.1 < s.params.nslots :=
    List.forall_mem_singleton.mpr (slot_lt_nslots hc index.toNat)
  exact (if_neg (Nat.not_le.mpr h)).trans (storePixels_of_lt hexists)

/-- Settles O21: the operands by the equation for `decode`, and in range the one write to a slot that exists. -/
theorem setPixelWritesOneCell : Obligations.SetPixelWritesOneCell := by
  intro s
  refine ⟨?operands, ?shortOperands, ?short, ?outOfRange, ?inRange⟩
  case operands => exact fun hi lo _ _ _ _ => ⟨u16be hi lo, u16be_toNat hi lo, rfl⟩
  case shortOperands =>
    intro payload h
    rw [decode_opSetPixel, decodePixel_short (by omega)]
  case short =>
    intro payload
    rw [exec_setPixel_short, raiseOutcome_malformed]
  case outOfRange => exact fun _ colour tail h => exec_setPixel_of_total_le h colour tail
  case inRange =>
    intro index colour tail hc h
    exact ⟨_, exec_setPixel_of_lt_total hc h colour tail, fbRead_fbWrite_self _ _ _,
      fun _ hp => fbRead_fbWrite_ne _ _ hp, addressableNow_slot hc index.toNat, rfl⟩

/-! ### SET_BRIGHTNESS (R163) -/

theorem exec_setBrightness_short (s : State) :
    exec (.setBrightness .short) s = .next (raiseOutcome (.malformed 0x02 1 2) s) := rfl

theorem exec_setBrightness_full (v : Byte) (tail : List Byte) (s : State) :
    exec (.setBrightness (.full v tail)) s = .next { s with bright := v } := rfl

/-- Settles O22: the opcode 0x02 by its equation for `decode`, then the command's two endings. -/
theorem setBrightnessStoresOnly : Obligations.SetBrightnessStoresOnly :=
  fun s => ⟨decode_opSetBrightness [], fun v tail => decode_opSetBrightness (v :: tail),
    by rw [exec_setBrightness_short, raiseOutcome_malformed], fun v tail => exec_setBrightness_full v tail s⟩

/-! ### RENDER (R164) -/

theorem exec_render (tail : List Byte) (s : State) : exec (.render tail) s = .next (doRender s) := rfl

/-- Settles O23: the pixels handed over are `fbPixels s`, cell by cell. -/
theorem renderHandsOverTheWholeBuffer : Obligations.RenderHandsOverTheWholeBuffer :=
  fun s tail => ⟨decode_opRender tail, doRender s, fbPixels s, exec_render tail s, fbPixels_length s,
    fun _ => fbPixels_getElem? s, doRender_lastRenderDur_lt s, rfl⟩

/-! ### CLEAR (R165) -/

theorem exec_clear {s : State} (hc : ConfigInv s) (tail : List Byte) :
    exec (.clear tail) s = .next (doRender (putFb (fbWriteAll s.mem.fb (clearWrites s)) s)) := by
  show onNext (storePixels (clearWrites s) s) doRender = _
  rw [storePixels_of_lt (clearWrites_lt_nslots hc), onNext_next]

/-- Settles O24: the slots of the pixels are written, the others kept; those are the unaddressed ones, which the idle
invariant speaks of. -/
theorem clearIdlesAndRenders : Obligations.ClearIdlesAndRenders := by
  intro s tail hc
  refine ⟨decode_opClear tail, _, exec_clear hc tail, ?written, ?kept, ?allIdle, doRender_lastRenderDur_lt _,
    doRender_of_eq_putFb rfl⟩
  case written => exact fun _ hi => fbRead_clearWrites_slot hi _
  case kept => exact fun _ hp => fbRead_clearWrites_of_ne hp _
  case allIdle =>
    intro hidle p hp
    by_cases haddr : ∃ i < total s, slot s i = p
    · obtain ⟨i, hi, rfl⟩ := haddr
      exact fbRead_clearWrites_slot hi _
    · have hunaddressed : addressableNow s p = false :=
        Bool.eq_false_iff.mpr (haddr ∘ (addressableNow_iff_exists_slot hc).mp)
      exact (fbRead_clearWrites_of_ne (fun i hi he => haddr ⟨i, hi, he⟩) _).trans (hidle p hp hunaddressed)

/-! ### SET_RANGE (R166) -/

theorem exec_setRange_short (payload : List Byte) (s : State) :
    exec (.setRange (.short payload)) s = .next (raiseOutcome (.malformed 0x05 (1 + payload.length) 4) s) := rfl

theorem exec_setRange_starved (start : Half) (count : Byte) (data : List Byte) (s : State) :
    exec (.setRange (.starved start count data)) s =
      .next (raiseOutcome (.malformed 0x05 (4 + data.length) (4 + 3 * count.toNat)) s) := rfl

theorem exec_setRange_of_total_le {start : Half} {s : State} (h : total s ≤ start.toNat) (colours : List Colour)
    (tail : List Byte) : exec (.setRange (.full start colours tail)) s = .next s := if_pos h

theorem exec_setRange_of_lt_total {start : Half} {s : State} (hc : ConfigInv s) (h : start.toNat < total s)
    (colours : List Colour) (tail : List Byte) :
    exec (.setRange (.full start colours tail)) s =
      .next (putFb (fbWriteAll s.mem.fb (rangeWrites s start.toNat colours)) s) :=
  (if_neg (Nat.not_le.mpr h)).trans (storePixels_of_lt (rowWrites_lt_nslots hc _ _))

theorem length_take_clampedCount (colours : List Colour) (totalLeds start : Nat) :
    (colours.take (clampedCount colours.length totalLeds start)).length =
      min colours.length (totalLeds - start) := by
  rw [clampedCount, List.length_take]
  omega

/-- Settles O25: the clamped row ends within TOTAL, so each of its slots holds its colour and every other slot is
kept. -/
theorem setRangeWritesTheClampedRange : Obligations.SetRangeWritesTheClampedRange := by
  intro s
  simp only [flatMap_rgb_eq_colourBytes]
  refine ⟨?operands, ?starvedOperands, ?shortOperands, ?short, ?starved, ?outOfRange, ?inRange⟩
  case operands =>
    intro hi lo count colours tail h
    exact ⟨u16be hi lo, u16be_toNat hi lo, by rw [decode_opSetRange, decodeRange_full hi lo tail h]⟩
  case starvedOperands =>
    intro hi lo count data h
    exact ⟨u16be hi lo, by rw [decode_opSetRange, decodeRange_starved hi lo (by omega)]⟩
  case shortOperands =>
    intro payload h
    rw [decode_opSetRange, decodeRange_short (by omega)]
  case short =>
    intro payload
    rw [exec_setRange_short, raiseOutcome_malformed]
  case starved =>
    intro start count data
    rw [exec_setRange_starved, raiseOutcome_malformed]
  case outOfRange => exact fun _ colours tail h => exec_setRange_of_total_le h colours tail
  case inRange =>
    intro start colours tail hc h
    have hlen := length_take_clampedCount colours (total s) start.toNat
    refine ⟨_, exec_setRange_of_lt_total hc h colours tail, ?written, ?kept, rfl⟩
    case written =>
      intro k _ hk
      exact (fbRead_rowWrites_slot hc (by omega) (hlen ▸ hk) _).trans List.getElem_take
    case kept => exact fun p hp => fbRead_rowWrites_of_ne (hlen ▸ hp) _

/-! ### SET_ALL (R167) -/

section SetAll
variable {s : State} {colours : List Colour} {tail : List Byte}

theorem length_encode_setAll (colours : List Colour) (tail : List Byte) :
    (encode (.setAll colours tail)).length = 1 + 3 * colours.length + tail.length :=
  (setAllFrameLength_eq colours tail).symm

theorem exec_setAll_of_lt (h : (encode (.setAll colours tail)).length < 1 + 3 * total s) :
    exec (.setAll colours tail) s =
      .next (raiseOutcome (.malformed 0x06 (encode (.setAll colours tail)).length (1 + 3 * total s)) s) := by
  obtain ⟨-, he⟩ | ⟨hle, -⟩ := execSetAll_cases colours tail s
  · exact he
  · omega

/-- The state SET_ALL renders (R167): the row of colours written, then the unaddressed slots blanked. -/
def setAllWritten (colours : List Colour) (s : State) : State :=
  blankUnaddressed s.cfgStrips.toNat s.cfgLen.toNat (putFb (fbWriteAll s.mem.fb (allWrites s colours)) s)

theorem exec_setAll_of_le (hc : ConfigInv s) (h : 1 + 3 * total s ≤ (encode (.setAll colours tail)).length) :
    exec (.setAll colours tail) s = .next (doRender (setAllWritten colours s)) := by
  obtain ⟨hlt, -⟩ | ⟨-, he⟩ := execSetAll_cases colours tail s
  · omega
  · show execSetAll colours tail s = _
    rw [he, allWrites, storePixels_of_lt (rowWrites_lt_nslots hc _ _), onNext_next]
    rfl

theorem fbRead_setAllWritten (colours : List Colour) (s : State) (p : Nat) :
    fbRead (setAllWritten colours s).mem.fb p =
      if p < s.params.nslots ∧ addressableNow s p = false then Colour.idle
      else fbRead (fbWriteAll s.mem.fb (allWrites s colours)) p :=
  fbRead_blankUnaddressed _ _ _ p

theorem fbRead_setAllWritten_slot {i : Nat} (hc : ConfigInv s) (hi : i < total s) (hlen : total s ≤ colours.length) :
    fbRead (setAllWritten colours s).mem.fb (slot s i) = colours[i] := by
  have hrow : (colours.take (total s)).length = total s := List.length_take_of_le hlen
  have hwrite := fbRead_rowWrites_slot (start := 0) hc (by omega) (hrow.symm ▸ hi) s.mem.fb
  rw [Nat.zero_add, List.getElem_take] at hwrite
  rw [fbRead_setAllWritten, if_neg (by simp [addressableNow_slot hc]), allWrites, hwrite]

theorem fbRead_setAllWritten_of_nslots_le {p : Nat} (hc : ConfigInv s) (hp : s.params.nslots ≤ p) :
    fbRead (setAllWritten colours s).mem.fb p = fbRead s.mem.fb p := by
  rw [fbRead_setAllWritten, if_neg (by omega)]
  refine fbRead_rowWrites_of_ne (fun k _ he => ?_) _
  have := slot_lt_nslots hc (0 + k)
  omega

end SetAll

/-- Settles O26: with at most two bytes left over, a frame of the required length holds a colour for every pixel; the
blanking touches no pixel's slot. -/
theorem setAllWritesEveryPixelAndRenders : Obligations.SetAllWritesEveryPixelAndRenders := by
  intro s colours tail htail
  rw [flatMap_rgb_eq_colourBytes]
  have hencode : encode (.setAll colours tail) = 0x06 :: (colourBytes colours ++ tail) := rfl
  refine ⟨hencode, ?decoded, fun hlt => ?short, fun hc hle => ?completes⟩
  case decoded => rw [hencode, decode_opSetAll, allColours_colourBytes colours htail]
  case short => rw [exec_setAll_of_lt hlt, raiseOutcome_malformed]
  case completes =>
    have hlen : total s ≤ colours.length := by
      rw [length_encode_setAll] at hle
      omega
    refine ⟨_, exec_setAll_of_le hc hle, ?pixels, ?blanked, ?outside, doRender_lastRenderDur_lt _,
      doRender_of_eq_putFb rfl⟩
    case pixels => exact fun i hi => ⟨hi.trans_le hlen, fbRead_setAllWritten_slot hc hi hlen⟩
    case blanked => exact fun p hp hu => (fbRead_setAllWritten colours s p).trans (if_pos ⟨hp, hu⟩)
    case outside => exact fun p hp => fbRead_setAllWritten_of_nslots_le hc hp

end Sys2Proof.Machine
end

section
/-! Which commands render (R160): an accepted command of the render class once, as its last output, and nothing else. -/

namespace Sys2Proof.Machine

/-! ### One render, and none -/

/-- From `s` to `t` the outputs grew by exactly one RENDER event, of the buffer and brightness `t` has, and FRAME_COUNT
moved by one. -/
def RendersOnce (s t : State) : Prop :=
  t.trace = s.trace ++ [.render (fbPixels t) t.bright] ∧ t.frameCount = (s.frameCount + 1) % 2 ^ s.params.cntW

/-- From `s` to `t` the outputs grew by no RENDER event and FRAME_COUNT stayed. -/
def RendersNothing (s t : State) : Prop :=
  ∃ evs, t.trace = s.trace ++ evs ∧ (∀ o ∈ evs, isRender o = false) ∧ t.frameCount = s.frameCount

theorem rendersOnce_doRender {s u : State} (hparams : u.params = s.params) (htrace : u.trace = s.trace)
    (hcount : u.frameCount = s.frameCount) : RendersOnce s (doRender u) := by
  refine ⟨?_, ?_⟩
  · rw [doRender_trace, htrace]
    rfl
  · rw [doRender_frameCount, hparams, hcount, bumpCounter]

theorem rendersNothing_of_same {s t : State} (htrace : t.trace = s.trace) (hcount : t.frameCount = s.frameCount) :
    RendersNothing s t :=
  ⟨[], by rw [htrace, List.append_nil], by simp, hcount⟩

theorem RendersNothing.trans {s t u : State} (hst : RendersNothing s t) (htu : RendersNothing t u) :
    RendersNothing s u := by
  obtain ⟨evs, htrace, hevs, hcount⟩ := hst
  obtain ⟨evs', htrace', hevs', hcount'⟩ := htu
  refine ⟨evs ++ evs', by rw [htrace', htrace, List.append_assoc], fun o ho => ?_, hcount'.trans hcount⟩
  exact (List.mem_append.mp ho).elim (hevs o) (hevs' o)

theorem rendersNothing_raiseOutcome (o : FrameOutcome) (s : State) : RendersNothing s (raiseOutcome o s) := by
  refine ⟨_, raiseOutcome_trace o s, ?_, raiseOutcome_frameCount o s⟩
  cases o <;> simp [isRender]

theorem rendersNothing_precheck (f : List Byte) (s : State) : RendersNothing s (precheck f s) := by
  obtain ⟨-, he⟩ | ⟨-, he⟩ := precheck_cases f s <;> rw [he]
  · exact rendersNothing_of_same rfl rfl
  · exact ⟨[.log (.zeroPayload (f.headD 0) f.length)], rfl, by simp [isRender], rfl⟩

theorem storePixels_rendersNothing {ws : List (Nat × Colour)} {s t : State} (h : storePixels ws s = .next t) :
    RendersNothing s t := by
  obtain ⟨-, rfl⟩ := storePixels_next h
  exact rendersNothing_of_same rfl rfl

/-! ### When a command of the render class is accepted (R210) -/

theorem outcomeOf_setAll_eq_ok_iff {colours : List Colour} {tail : List Byte} {s : State} :
    outcomeOf (.setAll colours tail) s = .ok ↔ 1 + 3 * total s ≤ (encode (.setAll colours tail)).length := by
  rw [length_encode_setAll, outcomeOf]
  split <;> simp [*]

theorem outcomeOf_reconfigure_full_eq_ok_iff {strips : Byte} {len : Half} {debug : Option Byte} {tail : List Byte}
    {s : State} :
    outcomeOf (.reconfigure (.full strips len debug tail)) s = .ok ↔ configInRange s.params strips len = true := by
  rw [configInRange_iff, and_assoc, outcomeOf]
  split <;> simp [*]

/-! ### The commands -/

theorem execSetPixel_rendersNothing {ops : PixelOperands} {s t : State} (h : execSetPixel ops s = .next t) :
    RendersNothing s t := by
  obtain ⟨_, _, he⟩ | ⟨_, _, _, _, _, he⟩ | ⟨_, _, _, _, _, he⟩ := execSetPixel_cases ops s <;> rw [he] at h
  · cases h
    exact rendersNothing_raiseOutcome _ s
  · cases h
    exact rendersNothing_of_same rfl rfl
  · exact storePixels_rendersNothing h

theorem execSetBrightness_rendersNothing {ops : BrightnessOperands} {s t : State}
    (h : execSetBrightness ops s = .next t) : RendersNothing s t := by
  obtain ⟨_, he⟩ | ⟨_, _, _, he⟩ := execSetBrightness_cases ops s <;> rw [he] at h <;> cases h
  · exact rendersNothing_raiseOutcome _ s
  · exact rendersNothing_of_same rfl rfl

theorem execSetRange_rendersNothing {ops : RangeOperands} {s t : State} (h : execSetRange ops s = .next t) :
    RendersNothing s t := by
  obtain ⟨_, _, he, _⟩ | ⟨_, _, _, _, _, he⟩ | ⟨_, _, _, _, _, he⟩ := execSetRange_cases ops s <;> rw [he] at h
  · cases h
    exact rendersNothing_raiseOutcome _ s
  · cases h
    exact rendersNothing_of_same rfl rfl
  · exact storePixels_rendersNothing h

/-- A command that completes is an accepted one of the render class and renders once, or is not and renders nothing. -/
theorem exec_rendersOnce_or_nothing {i : Instr} {s t : State} (h : exec i s = .next t) :
    (renderClass i = true ∧ outcomeOf i s = .ok ∧ RendersOnce s t) ∨
    ((renderClass i = false ∨ outcomeOf i s ≠ .ok) ∧ RendersNothing s t) := by
  cases i with
  | setPixel ops => exact .inr ⟨.inl rfl, execSetPixel_rendersNothing h⟩
  | setBrightness ops => exact .inr ⟨.inl rfl, execSetBrightness_rendersNothing h⟩
  | render tail =>
    cases h
    exact .inl ⟨rfl, rfl, rendersOnce_doRender rfl rfl rfl⟩
  | clear tail =>
    obtain ⟨u, hu, rfl⟩ := onNext_eq_next.mp h
    obtain ⟨-, rfl⟩ := storePixels_next hu
    exact .inl ⟨rfl, rfl, rendersOnce_doRender rfl rfl rfl⟩
  | setRange ops => exact .inr ⟨.inl rfl, execSetRange_rendersNothing h⟩
  | setAll colours tail =>
    change execSetAll colours tail s = .next t at h
    obtain ⟨hlt, he⟩ | ⟨hle, he⟩ := execSetAll_cases colours tail s <;> rw [he] at h
    · cases h
      exact .inr ⟨.inr fun hok => Nat.not_le.mpr hlt (outcomeOf_setAll_eq_ok_iff.mp hok),
        rendersNothing_raiseOutcome _ s⟩
    · obtain ⟨u, hu, rfl⟩ := onNext_eq_next.mp h
      obtain ⟨-, rfl⟩ := storePixels_next hu
      exact .inl ⟨rfl, outcomeOf_setAll_eq_ok_iff.mpr hle, rendersOnce_doRender rfl rfl rfl⟩
  | reconfigure ops =>
    change execReconfigure ops s = .next t at h
    obtain ⟨_, rfl, he⟩ | ⟨_, _, _, _, rfl, hbad, he⟩ | ⟨_, _, _, _, rfl, hgood, he⟩ := execReconfigure_cases ops s <;>
      rw [he] at h <;> cases h
    · exact .inr ⟨.inr nofun, rendersNothing_raiseOutcome _ s⟩
    · exact .inr ⟨.inr fun hok => Bool.eq_false_iff.mp hbad (outcomeOf_reconfigure_full_eq_ok_iff.mp hok),
        rendersNothing_raiseOutcome _ s⟩
    · exact .inl ⟨rfl, outcomeOf_reconfigure_full_eq_ok_iff.mpr hgood, rendersOnce_doRender rfl rfl rfl⟩
  | keepalive tail =>
    cases h
    exact .inr ⟨.inl rfl, rendersNothing_of_same rfl rfl⟩

/-- Settles O27: the two ways a command can complete exclude each other's hypotheses; an unrecognized frame passes the
pre-check and ends in its outcome, neither of which renders. -/
theorem onlyAcceptedRenderClassCommandsRender : Obligations.OnlyAcceptedRenderClassCommandsRender := by
  refine ⟨fun i s t h => ?command, fun f op s t hop h => ?unrecognized⟩
  case command =>
    obtain ⟨hclass, hok, htrace, hcount⟩ | ⟨hnot, evs, htrace, hevs, hcount⟩ := exec_rendersOnce_or_nothing h
    · exact ⟨_, htrace, fun _ => ⟨rfl, hcount⟩, fun hnot => by simp [hclass, hok] at hnot⟩
    · exact ⟨evs, htrace, fun hboth => by simp [hboth] at hnot, fun _ => ⟨hevs, hcount⟩⟩
  case unrecognized =>
    rw [runFrame_of_decode_unrecognized hop] at h
    cases h
    exact (rendersNothing_precheck f s).trans (rendersNothing_raiseOutcome _ _)

end Sys2Proof.Machine
end

section
/-! RECONFIGURE (44_configuration.md): its three endings as equations, what the blanking leaves of the frame buffer, and
that every other command keeps the configuration. -/

namespace Sys2Proof.Machine

/-! ### The pair and the flag (R191, R193) -/

theorem configInRange_eq_false_iff {p : Params} {strips : Byte} {len : Half} :
    configInRange p strips len = false ↔
      strips.toNat < 1 ∨ p.maxStrips < strips.toNat ∨ len.toNat < 1 ∨ p.maxLeds < len.toNat := by
  rw [← Bool.not_eq_true, configInRange_iff]
  omega

theorem debugAfter_some_iff (old : Bool) {flag : Byte} : debugAfter old (some flag) = true ↔ flag ≠ 0 :=
  decide_eq_true_iff

theorem raiseOutcome_configRejected (strips : Byte) (len : Half) (s : State) :
    raiseOutcome (.configRejected strips len) s =
      { s with
        malformedCount := (s.malformedCount + 1) % 2 ^ s.params.cntW
        trace := s.trace ++ [.log (.configRejected strips len)] } := rfl

/-! ### The three endings (R190) -/

/-- The state an accepted RECONFIGURE renders (R190): the pair and the flag written, then the slots outside the new
space blanked. -/
def reconfigured (strips : Byte) (len : Half) (debug : Option Byte) (s : State) : State :=
  blankUnaddressed strips.toNat len.toNat { putConfig strips len s with debug := debugAfter s.debug debug }

section Endings
variable {strips : Byte} {len : Half} {s : State}

theorem exec_reconfigure_short (payload : List Byte) (s : State) :
    exec (.reconfigure (.short payload)) s = .next (raiseOutcome (.malformed 0x07 (1 + payload.length) 4) s) := rfl

theorem exec_reconfigure_of_not_inRange (h : configInRange s.params strips len = false) (debug : Option Byte)
    (tail : List Byte) :
    exec (.reconfigure (.full strips len debug tail)) s = .next (raiseOutcome (.configRejected strips len) s) :=
  if_neg (Bool.eq_false_iff.mp h)

theorem exec_reconfigure_of_inRange (h : configInRange s.params strips len = true) (debug : Option Byte)
    (tail : List Byte) :
    exec (.reconfigure (.full strips len debug tail)) s = .next (doRender (reconfigured strips len debug s)) :=
  if_pos h

end Endings

/-! ### The blanked buffer (R168, R192) -/

theorem addressable_iff {maxLeds strips len p : Nat} :
    addressable maxLeds strips len p = true ↔ p / maxLeds < strips ∧ p % maxLeds < len := by
  simp [addressable]

section Blanking
variable {strips : Byte} {len : Half} {s : State} {p : Nat}

theorem fbRead_reconfigured_outside (debug : Option Byte) (hp : p < s.params.nslots)
    (hout : ¬(p / s.params.maxLeds < strips.toNat ∧ p % s.params.maxLeds < len.toNat)) :
    fbRead (reconfigured strips len debug s).mem.fb p = Colour.idle :=
  (fbRead_blankUnaddressed _ _ _ p).trans (if_pos ⟨hp, Bool.eq_false_iff.mpr (hout ∘ addressable_iff.mp)⟩)

/-- A slot inside the new space keeps its colour, and so does an address beyond the buffer, which the blanking does not
reach. -/
theorem fbRead_reconfigured_kept (debug : Option Byte)
    (hkept : s.params.nslots ≤ p ∨ (p / s.params.maxLeds < strips.toNat ∧ p % s.params.maxLeds < len.toNat)) :
    fbRead (reconfigured strips len debug s).mem.fb p = fbRead s.mem.fb p := by
  refine (fbRead_blankUnaddressed _ _ _ p).trans (if_neg ?_)
  rintro ⟨hp, hout⟩
  obtain hbeyond | hin := hkept
  · exact Nat.not_le.mpr hp hbeyond
  · exact Bool.eq_false_iff.mp hout (addressable_iff.mpr hin)

end Blanking

/-- Settles O30: the three endings follow from the length and the range of the pair; in range, the blanking decides what
each slot holds and the rest of the state is as written. -/
theorem reconfigureAppliesBlanksAndRenders : Obligations.ReconfigureAppliesBlanksAndRenders := by
  intro s
  refine ⟨?operands, ?shortOperands, ?short, ?rejected, ?accepted⟩
  case operands => exact fun _ hi lo => ⟨u16be hi lo, u16be_toNat hi lo, rfl, fun _ _ => rfl⟩
  case shortOperands =>
    intro payload h
    rw [decode_opReconfigure, decodeReconfigure_short (by omega)]
  case short =>
    intro payload
    rw [exec_reconfigure_short, raiseOutcome_malformed]
  case rejected =>
    intro strips len debug tail hbad
    rw [exec_reconfigure_of_not_inRange (configInRange_eq_false_iff.mpr hbad), raiseOutcome_configRejected]
  case accepted =>
    intro strips len debug tail hS hSmax hL hLmax
    have hrange : configInRange s.params strips len = true := configInRange_iff.mpr ⟨⟨hS, hSmax⟩, hL, hLmax⟩
    refine ⟨_, exec_reconfigure_of_inRange hrange debug tail, ?flagAbsent, ?flagPresent,
      fun _ => fbRead_reconfigured_outside debug, fun _ => fbRead_reconfigured_kept debug,
      doRender_lastRenderDur_lt _, rfl⟩
    case flagAbsent =>
      rintro rfl
      rfl
    case flagPresent =>
      rintro d rfl
      exact debugAfter_some_iff s.debug

/-! ### The configuration and the commands (R194) -/

/-- `t` has the pair and DEBUG, the cells of R16, R17 and R22, as `s` has them. -/
structure SameConfig (s t : State) : Prop where
  cfgStrips : t.cfgStrips = s.cfgStrips
  cfgLen : t.cfgLen = s.cfgLen
  debug : t.debug = s.debug

theorem sameConfig_raiseOutcome (o : FrameOutcome) (s : State) : SameConfig s (raiseOutcome o s) := by
  constructor <;> simp

theorem storePixels_sameConfig {ws : List (Nat × Colour)} {s t : State} (h : storePixels ws s = .next t) :
    SameConfig s t := by
  obtain ⟨-, rfl⟩ := storePixels_next h
  exact ⟨rfl, rfl, rfl⟩

/-- Under one configuration of one build the same slots are addressable (R153). -/
theorem SameConfig.addressableNow_eq {s t : State} (h : SameConfig s t) (hparams : t.params = s.params) (p : Nat) :
    addressableNow t p = addressableNow s p := by
  rw [addressableNow, addressableNow, hparams, h.cfgStrips, h.cfgLen]

/-- A command that completes keeps the configuration, or is an accepted RECONFIGURE. -/
theorem exec_sameConfig_or_reconfigured {i : Instr} {s t : State} (h : exec i s = .next t) :
    SameConfig s t ∨
    ∃ strips len debug tail, i = .reconfigure (.full strips len debug tail) ∧
      configInRange s.params strips len = true ∧ t = doRender (reconfigured strips len debug s) := by
  cases i with
  | setPixel ops =>
    change execSetPixel ops s = .next t at h
    obtain ⟨_, _, he⟩ | ⟨_, _, _, _, _, he⟩ | ⟨_, _, _, _, _, he⟩ := execSetPixel_cases ops s <;> rw [he] at h
    · cases h
      exact .inl (sameConfig_raiseOutcome _ s)
    · cases h
      exact .inl ⟨rfl, rfl, rfl⟩
    · exact .inl (storePixels_sameConfig h)
  | setBrightness ops =>
    change execSetBrightness ops s = .next t at h
    obtain ⟨_, he⟩ | ⟨_, _, _, he⟩ := execSetBrightness_cases ops s <;> rw [he] at h <;> cases h
    · exact .inl (sameConfig_raiseOutcome _ s)
    · exact .inl ⟨rfl, rfl, rfl⟩
  | render tail =>
    cases h
    exact .inl ⟨rfl, rfl, rfl⟩
  | clear tail =>
    obtain ⟨u, hu, rfl⟩ := onNext_eq_next.mp h
    obtain ⟨hstrips, hlen, hdebug⟩ := storePixels_sameConfig hu
    exact .inl ⟨hstrips, hlen, hdebug⟩
  | setRange ops =>
    change execSetRange ops s = .next t at h
    obtain ⟨_, _, he, _⟩ | ⟨_, _, _, _, _, he⟩ | ⟨_, _, _, _, _, he⟩ := execSetRange_cases ops s <;> rw [he] at h
    · cases h
      exact .inl (sameConfig_raiseOutcome _ s)
    · cases h
      exact .inl ⟨rfl, rfl, rfl⟩
    · exact .inl (storePixels_sameConfig h)
  | setAll colours tail =>
    change execSetAll colours tail s = .next t at h
    obtain ⟨_, he⟩ | ⟨_, he⟩ := execSetAll_cases colours tail s <;> rw [he] at h
    · cases h
      exact .inl (sameConfig_raiseOutcome _ s)
    · obtain ⟨u, hu, rfl⟩ := onNext_eq_next.mp h
      obtain ⟨hstrips, hlen, hdebug⟩ := storePixels_sameConfig hu
      exact .inl ⟨hstrips, hlen, hdebug⟩
  | reconfigure ops =>
    change execReconfigure ops s = .next t at h
    obtain ⟨_, rfl, he⟩ | ⟨_, _, _, _, rfl, _, he⟩ | ⟨strips, len, debug, tail, rfl, hrange, he⟩ :=
      execReconfigure_cases ops s <;> rw [he] at h <;> cases h
    · exact .inl (sameConfig_raiseOutcome _ s)
    · exact .inl (sameConfig_raiseOutcome _ s)
    · exact .inr ⟨strips, len, debug, tail, rfl, hrange, rfl⟩
  | keepalive tail =>
    cases h
    exact .inl ⟨rfl, rfl, rfl⟩

/-- A render changes neither the buffer nor the build, so a second one shows the same pixels. -/
theorem fbPixels_doRender (s : State) : fbPixels (doRender s) = fbPixels s := rfl

/-- Settles O31: both renders show the buffer of the state `reconfigured`; and a command that keeps the configuration
keeps the addressable slots. -/
theorem reconfigureRendersTheBlankedBuffer : Obligations.ReconfigureRendersTheBlankedBuffer := by
  refine ⟨?renders, ?onlyReconfigure⟩
  case renders =>
    intro s strips len debug tail tail' hS hSmax hL hLmax
    have hrange : configInRange s.params strips len = true := configInRange_iff.mpr ⟨⟨hS, hSmax⟩, hL, hLmax⟩
    refine ⟨_, _, fbPixels (reconfigured strips len debug s), exec_reconfigure_of_inRange hrange debug tail,
      exec_render tail' _, rfl, rfl, ?trace, ?idle⟩
    case trace =>
      rw [doRender_trace, fbPixels_doRender, doRender_trace, List.append_assoc]
      rfl
    case idle =>
      intro p hp hout
      rw [fbPixels_getElem? (reconfigured strips len debug s) hp, fbRead_reconfigured_outside debug hp hout]
  case onlyReconfigure =>
    rintro i s t h ⟨p, hp⟩
    obtain hsame | ⟨strips, len, debug, tail, hi, -⟩ := exec_sameConfig_or_reconfigured h
    · exact absurd (hsame.addressableNow_eq (exec_keepsFrontEnd i s t h).params p) hp
    · exact ⟨strips, len, debug, tail, hi⟩

end Sys2Proof.Machine
end

section
/-! The outcomes of a frame (60_exceptions.md): which frames end MALFORMED (R202), OUT_OF_RANGE (R203), UNKNOWN_OPCODE
(R204), CONFIG_REJECTED (R205) or EMPTY (R207), and what each leaves. -/

namespace Sys2Proof.Machine

/-! ### The term of a frame is well formed, and its frame is that frame (R70, R82) -/

theorem encodePixel_decodePixel (payload : List Byte) :
    encodePixel (decodePixel payload) = payload ∧ (decodePixel payload).wellFormed = true := by
  by_cases hshort : payload.length + 1 < 6
  · rw [decodePixel_short hshort]
    exact ⟨rfl, decide_eq_true (by omega)⟩
  · match payload with
    | hi :: lo :: r :: g :: b :: tail => simp [decodePixel, encodePixel, PixelOperands.wellFormed]
    | [] | [_] | [_, _] | [_, _, _] | [_, _, _, _] => simp at hshort

theorem encodeBrightness_decodeBrightness (payload : List Byte) :
    encodeBrightness (decodeBrightness payload) = payload ∧ (decodeBrightness payload).wellFormed = true := by
  cases payload <;> exact ⟨rfl, rfl⟩

theorem encodeRange_decodeRange (payload : List Byte) :
    encodeRange (decodeRange payload) = payload ∧ (decodeRange payload).wellFormed = true := by
  by_cases hshort : payload.length + 1 < 4
  · rw [decodeRange_short hshort]
    exact ⟨rfl, decide_eq_true (by omega)⟩
  · match payload with
    | hi :: lo :: count :: data =>
      by_cases hstarved : data.length < 3 * count.toNat
      · rw [decodeRange_starved hi lo hstarved]
        exact ⟨by simp [encodeRange], decide_eq_true hstarved⟩
      · obtain ⟨⟨colours, tail⟩, htake⟩ := Option.ne_none_iff_exists'.mp (mt takeColours_none.mp hstarved)
        obtain ⟨hlen, rfl⟩ := takeColours_some htake
        rw [decodeRange_full hi lo tail hlen]
        have := count.isLt
        exact ⟨by simp [encodeRange, hlen], decide_eq_true (by omega)⟩
    | [] | [_] | [_, _] => simp at hshort

theorem encodeReconfigure_decodeReconfigure (payload : List Byte) :
    encodeReconfigure (decodeReconfigure payload) = payload ∧ (decodeReconfigure payload).wellFormed = true := by
  by_cases hshort : payload.length + 1 < 4
  · rw [decodeReconfigure_short hshort]
    exact ⟨rfl, decide_eq_true (by omega)⟩
  · match payload with
    | [_, _, _] | _ :: _ :: _ :: _ :: _ =>
      simp [decodeReconfigure, encodeReconfigure, ReconfigureOperands.wellFormed]
    | [] | [_] | [_, _] => simp at hshort

theorem encode_of_decode {f : List Byte} {i : Instr} (h : decode f = .instr i) :
    encode i = f ∧ i.wellFormed = true := by
  cases f with
  | nil => cases h
  | cons op payload =>
    simp only [decode] at h
    split_ifs at h with hPixel hBrightness hRender hClear hRange hAll hReconfigure hKeepalive <;>
      cases h <;> subst op
    · obtain ⟨hencode, hwf⟩ := encodePixel_decodePixel payload
      exact ⟨congrArg (opSetPixel :: ·) hencode, hwf⟩
    · obtain ⟨hencode, hwf⟩ := encodeBrightness_decodeBrightness payload
      exact ⟨congrArg (opSetBrightness :: ·) hencode, hwf⟩
    · exact ⟨rfl, rfl⟩
    · exact ⟨rfl, rfl⟩
    · obtain ⟨hencode, hwf⟩ := encodeRange_decodeRange payload
      exact ⟨congrArg (opSetRange :: ·) hencode, hwf⟩
    · obtain ⟨htail, hpayload⟩ := allColours_spec payload
      exact ⟨congrArg (opSetAll :: ·) hpayload.symm, decide_eq_true htail⟩
    · obtain ⟨hencode, hwf⟩ := encodeReconfigure_decodeReconfigure payload
      exact ⟨congrArg (opReconfigure :: ·) hencode, hwf⟩
    · exact ⟨rfl, rfl⟩

/-! ### The table of MALFORMED conditions (R202) -/

/-- The frame `f` meets the line of R202's table that logs `op`, `n` and `expected`, under a configuration of
`totalLeds` pixels. -/
def MeetsMalformedLine (f : List Byte) (totalLeds : Nat) (op : Byte) (n expected : Nat) : Prop :=
  f[0]? = some op ∧ n = f.length ∧ n < expected ∧
  ((op = 0x01 ∧ expected = 6) ∨ (op = 0x02 ∧ expected = 2) ∨ (op = 0x05 ∧ expected = 4) ∨
    (op = 0x05 ∧ ∃ count : Byte, f[3]? = some count ∧ expected = 4 + 3 * count.toNat) ∨
    (op = 0x06 ∧ expected = 1 + 3 * totalLeds) ∨ (op = 0x07 ∧ expected = 4))

/-- The list of conditions in `outcomeOf` names a MALFORMED outcome only for a frame that meets a line of the table. -/
theorem meetsMalformedLine_encode {i : Instr} {s : State} {op : Byte} {n expected : Nat} (hwf : i.wellFormed = true)
    (h : outcomeOf i s = .malformed op n expected) : MeetsMalformedLine (encode i) (total s) op n expected := by
  cases i with
  | setPixel ops =>
    cases ops with
    | short payload =>
      cases h
      have hshort : payload.length < 5 := of_decide_eq_true hwf
      exact ⟨rfl, Nat.add_comm _ _, by omega, .inl ⟨rfl, rfl⟩⟩
    | full index colour tail =>
      simp only [outcomeOf] at h
      split at h <;> cases h
  | setBrightness ops =>
    cases ops with
    | short =>
      cases h
      exact ⟨rfl, rfl, by omega, .inr (.inl ⟨rfl, rfl⟩)⟩
    | full v tail => cases h
  | render tail => cases h
  | clear tail => cases h
  | setRange ops =>
    cases ops with
    | short payload =>
      cases h
      have hshort : payload.length < 3 := of_decide_eq_true hwf
      exact ⟨rfl, Nat.add_comm _ _, by omega, .inr (.inr (.inl ⟨rfl, rfl⟩))⟩
    | starved start count data =>
      cases h
      have hstarved : data.length < 3 * count.toNat := of_decide_eq_true hwf
      exact ⟨rfl, Nat.add_comm _ _, by omega, .inr (.inr (.inr (.inl ⟨rfl, count, rfl, rfl⟩)))⟩
    | full start colours tail =>
      simp only [outcomeOf] at h
      split at h <;> cases h
  | setAll colours tail =>
    simp only [outcomeOf] at h
    split at h <;> cases h
    next hlt =>
      exact ⟨rfl, (length_encode_setAll colours tail).symm, by omega, .inr (.inr (.inr (.inr (.inl ⟨rfl, rfl⟩))))⟩
  | reconfigure ops =>
    cases ops with
    | short payload =>
      cases h
      have hshort : payload.length < 3 := of_decide_eq_true hwf
      exact ⟨rfl, Nat.add_comm _ _, by omega, .inr (.inr (.inr (.inr (.inr ⟨rfl, rfl⟩))))⟩
    | full strips len debug tail =>
      simp only [outcomeOf] at h
      split at h <;> cases h
  | keepalive tail => cases h

/-! ### The MALFORMED events of a step -/

/-- From `s` to `t` the outputs only grew, and `P` holds of every MALFORMED event among the new ones. -/
def LogsMalformedOnlyIf (P : Byte → Nat → Nat → Prop) (s t : State) : Prop :=
  ∃ evs, t.trace = s.trace ++ evs ∧ ∀ op n expected, Output.log (.malformed op n expected) ∈ evs → P op n expected

section Logs
variable {P : Byte → Nat → Nat → Prop} {s t u : State}

theorem logsMalformedOnlyIf_of_same (h : t.trace = s.trace) : LogsMalformedOnlyIf P s t :=
  ⟨[], by rw [h, List.append_nil], by simp⟩

theorem LogsMalformedOnlyIf.trans (hst : LogsMalformedOnlyIf P s t) (htu : LogsMalformedOnlyIf P t u) :
    LogsMalformedOnlyIf P s u := by
  obtain ⟨evs, htrace, hevs⟩ := hst
  obtain ⟨evs', htrace', hevs'⟩ := htu
  refine ⟨evs ++ evs', by rw [htrace', htrace, List.append_assoc], fun op n expected hmem => ?_⟩
  exact (List.mem_append.mp hmem).elim (hevs op n expected) (hevs' op n expected)

theorem logsMalformedOnlyIf_raiseOutcome {o : FrameOutcome} (s : State)
    (h : ∀ op n expected, o = .malformed op n expected → P op n expected) :
    LogsMalformedOnlyIf P s (raiseOutcome o s) := by
  refine ⟨_, raiseOutcome_trace o s, fun op n expected hmem => h op n expected ?_⟩
  cases o <;> simp_all

theorem logsMalformedOnlyIf_precheck (f : List Byte) (s : State) : LogsMalformedOnlyIf P s (precheck f s) := by
  obtain ⟨-, he⟩ | ⟨-, he⟩ := precheck_cases f s <;> rw [he]
  · exact logsMalformedOnlyIf_of_same rfl
  · exact ⟨[.log (.zeroPayload (f.headD 0) f.length)], rfl, by simp⟩

theorem logsMalformedOnlyIf_doRender (h : u.trace = s.trace) : LogsMalformedOnlyIf P s (doRender u) :=
  ⟨[.render (fbPixels u) u.bright], by rw [doRender_trace, h], by simp⟩

theorem storePixels_trace {ws : List (Nat × Colour)} (h : storePixels ws s = .next t) : t.trace = s.trace := by
  obtain ⟨-, rfl⟩ := storePixels_next h
  rfl

end Logs

theorem outcomeOf_setAll_of_lt {colours : List Colour} {tail : List Byte} {s : State}
    (h : (encode (.setAll colours tail)).length < 1 + 3 * total s) :
    outcomeOf (.setAll colours tail) s = .malformed 0x06 (encode (.setAll colours tail)).length (1 + 3 * total s) := by
  rw [length_encode_setAll] at h ⊢
  exact if_neg (Nat.not_le.mpr h)

/-- A command that completes logs a MALFORMED event only if the list of conditions in `outcomeOf` names it. -/
theorem exec_logsMalformedOnlyIf {P : Byte → Nat → Nat → Prop} {i : Instr} {s t : State} (h : exec i s = .next t)
    (hP : ∀ op n expected, outcomeOf i s = .malformed op n expected → P op n expected) :
    LogsMalformedOnlyIf P s t := by
  cases i with
  | setPixel ops =>
    change execSetPixel ops s = .next t at h
    obtain ⟨_, rfl, he⟩ | ⟨_, _, _, _, _, he⟩ | ⟨_, _, _, _, _, he⟩ := execSetPixel_cases ops s <;> rw [he] at h
    · cases h
      exact logsMalformedOnlyIf_raiseOutcome s hP
    · cases h
      exact logsMalformedOnlyIf_of_same rfl
    · exact logsMalformedOnlyIf_of_same (storePixels_trace h)
  | setBrightness ops =>
    change execSetBrightness ops s = .next t at h
    obtain ⟨rfl, he⟩ | ⟨_, _, _, he⟩ := execSetBrightness_cases ops s <;> rw [he] at h <;> cases h
    · exact logsMalformedOnlyIf_raiseOutcome s hP
    · exact logsMalformedOnlyIf_of_same rfl
  | render tail =>
    cases h
    exact logsMalformedOnlyIf_doRender rfl
  | clear tail =>
    obtain ⟨u, hu, rfl⟩ := onNext_eq_next.mp h
    exact logsMalformedOnlyIf_doRender (storePixels_trace hu)
  | setRange ops =>
    change execSetRange ops s = .next t at h
    obtain ⟨_, _, he, ⟨_, rfl, rfl, rfl⟩ | ⟨_, _, _, rfl, rfl, rfl⟩⟩ | ⟨_, _, _, _, _, he⟩ | ⟨_, _, _, _, _, he⟩ :=
      execSetRange_cases ops s <;> rw [he] at h
    · cases h
      exact logsMalformedOnlyIf_raiseOutcome s hP
    · cases h
      exact logsMalformedOnlyIf_raiseOutcome s hP
    · cases h
      exact logsMalformedOnlyIf_of_same rfl
    · exact logsMalformedOnlyIf_of_same (storePixels_trace h)
  | setAll colours tail =>
    change execSetAll colours tail s = .next t at h
    obtain ⟨hlt, he⟩ | ⟨_, he⟩ := execSetAll_cases colours tail s <;> rw [he] at h
    · cases h
      exact logsMalformedOnlyIf_raiseOutcome s (outcomeOf_setAll_of_lt hlt ▸ hP)
    · obtain ⟨u, hu, rfl⟩ := onNext_eq_next.mp h
      exact logsMalformedOnlyIf_doRender ((blankUnaddressed_trace _ _ u).trans (storePixels_trace hu))
  | reconfigure ops =>
    change execReconfigure ops s = .next t at h
    obtain ⟨_, rfl, he⟩ | ⟨_, _, _, _, _, _, he⟩ | ⟨_, _, _, _, _, _, he⟩ := execReconfigure_cases ops s <;>
      rw [he] at h <;> cases h
    · exact logsMalformedOnlyIf_raiseOutcome s hP
    · exact logsMalformedOnlyIf_raiseOutcome s nofun
    · exact logsMalformedOnlyIf_doRender rfl
  | keepalive tail =>
    cases h
    exact logsMalformedOnlyIf_of_same rfl

/-! ### The pre-check before the outcome (R131, R206) -/

theorem total_precheck (f : List Byte) (s : State) : total (precheck f s) = total s := by
  rw [total, total, precheck_cfgStrips, precheck_cfgLen]

/-- The pre-check moves ZPAY_COUNT and the log, and nothing else. -/
theorem precheck_eq (f : List Byte) (s : State) :
    precheck f s = { s with zpayCount := (precheck f s).zpayCount, trace := (precheck f s).trace } := by
  obtain ⟨-, he⟩ | ⟨-, he⟩ := precheck_cases f s <;> rw [he]
  rfl

/-- A frame that logs MALFORMED when it is decoded meets a line of the table (R202, R210). -/
theorem runFrame_logsMalformedOnlyIf {f : List Byte} {s t : State} (h : runFrame f s = .next t) :
    LogsMalformedOnlyIf (MeetsMalformedLine f (total s)) s t := by
  cases hd : decode f with
  | empty =>
    simp only [runFrame, hd] at h
    cases h
    exact logsMalformedOnlyIf_of_same rfl
  | unrecognized op =>
    rw [runFrame_of_decode_unrecognized hd] at h
    cases h
    exact (logsMalformedOnlyIf_precheck f s).trans (logsMalformedOnlyIf_raiseOutcome _ nofun)
  | instr i =>
    rw [runFrame_of_decode_instr hd] at h
    obtain ⟨rfl, hwf⟩ := encode_of_decode hd
    refine (logsMalformedOnlyIf_precheck _ s).trans (exec_logsMalformedOnlyIf h fun op n expected ho => ?_)
    exact total_precheck (encode i) s ▸ meetsMalformedLine_encode hwf ho

/-- What a frame leaves whose command ends MALFORMED: the pre-check's effects, the counter and the one log event
(R202). -/
theorem runFrame_of_exec_malformed {f : List Byte} {i : Instr} {s : State} {op : Byte} {n expected : Nat}
    (hd : decode f = .instr i)
    (he : exec i (precheck f s) = .next (raiseOutcome (.malformed op n expected) (precheck f s))) :
    runFrame f s = .next { precheck f s with
      malformedCount := (s.malformedCount + 1) % 2 ^ s.params.cntW
      trace := (precheck f s).trace ++ [.log (.malformed op n expected)] } := by
  simp only [runFrame_of_decode_instr hd, he, raiseOutcome_malformed, precheck_malformedCount, precheck_params]

theorem eq_cons_of_getElem?_two {payload : List Byte} {count : Byte} (h : payload[2]? = some count) :
    ∃ hi lo data, payload = hi :: lo :: count :: data := by
  match payload with
  | hi :: lo :: c :: data =>
    obtain rfl : c = count := Option.some.inj h
    exact ⟨hi, lo, data, rfl⟩
  | [] | [_] | [_, _] => cases h

/-! ### The obligations -/

/-- Settles O15: each line of the table is the rejected case of its command; and a MALFORMED event of a frame comes from
the outcome of its command, which names a line that the command's own frame meets. -/
theorem shortFramesAreMalformed : Obligations.ShortFramesAreMalformed := by
  refine ⟨fun s payload => ?lines, fun s t f h => runFrame_logsMalformedOnlyIf h⟩
  refine ⟨fun h => ?pixel, fun h => ?brightness, fun h => ?rangeHeader, fun count hcount h => ?range, fun h => ?all,
    fun h => ?reconfigure⟩
  case pixel =>
    have hd : decode (0x01 :: payload) = .instr (.setPixel (.short payload)) := by
      rw [decode_opSetPixel, decodePixel_short h]
    rw [runFrame_of_exec_malformed hd (exec_setPixel_short payload _), Nat.add_comm 1]
  case brightness =>
    obtain rfl : payload = [] := List.length_eq_zero_iff.mp (by omega)
    exact runFrame_of_exec_malformed (decode_opSetBrightness []) (exec_setBrightness_short _)
  case rangeHeader =>
    have hd : decode (0x05 :: payload) = .instr (.setRange (.short payload)) := by
      rw [decode_opSetRange, decodeRange_short h]
    rw [runFrame_of_exec_malformed hd (exec_setRange_short payload _), Nat.add_comm 1]
  case range =>
    obtain ⟨hi, lo, data, rfl⟩ := eq_cons_of_getElem?_two hcount
    have hstarved : data.length < 3 * count.toNat := by
      simp only [List.length_cons] at h
      omega
    have hd : decode (0x05 :: hi :: lo :: count :: data) = .instr (.setRange (.starved (u16be hi lo) count data)) := by
      rw [decode_opSetRange, decodeRange_starved hi lo hstarved]
    rw [runFrame_of_exec_malformed hd (exec_setRange_starved _ count data _), Nat.add_comm 4]
    rfl
  case all =>
    have hd := decode_opSetAll payload
    obtain ⟨hframe, -⟩ := encode_of_decode hd
    have htotal := total_precheck (0x06 :: payload) s
    rw [runFrame_of_exec_malformed hd (exec_setAll_of_lt (by rw [hframe, htotal]; exact h)), hframe, htotal,
      List.length_cons]
  case reconfigure =>
    have hd : decode (0x07 :: payload) = .instr (.reconfigure (.short payload)) := by
      rw [decode_opReconfigure, decodeReconfigure_short h]
    rw [runFrame_of_exec_malformed hd (exec_reconfigure_short payload _), Nat.add_comm 1]

/-- Settles O12: none of the 248 values is a command's opcode, so after the pre-check there is only the log event; the
pre-check's own effects are `precheck_eq`. -/
theorem unknownOpcodeIsLoggedAndDropped : Obligations.UnknownOpcodeIsLoggedAndDropped := by
  intro op payload s hop
  have hd := decode_unrecognized_of_forall_opcodeOf_ne (opcodeOf_ne_of_outside_map hop) payload
  refine ⟨_, runFrame_of_decode_unrecognized hd s, rfl, ?_⟩
  rw [precheck_eq (op :: payload) s]
  rfl

/-- Settles O16: the two guards are on `total s`; a clamped row ends within TOTAL, so each colour that fits is at its
slot. -/
theorem outOfRangeIsSilent : Obligations.OutOfRangeIsSilent := by
  intro s
  refine ⟨fun _ colour tail h => exec_setPixel_of_total_le h colour tail,
    fun _ colours tail h => exec_setRange_of_total_le h colours tail, fun start colours tail hc hstart hclamped => ?_⟩
  refine ⟨_, exec_setRange_of_lt_total hc hstart colours tail, fun k hk hfits => ?_, rfl⟩
  have hlen := length_take_clampedCount colours (total s) start.toNat
  exact (fbRead_rowWrites_slot hc (by omega) (by omega) _).trans List.getElem_take

/-- Settles O13: the empty frame decodes to no command and is not pre-checked. -/
theorem emptyFrameIsNoOp : Obligations.EmptyFrameIsNoOp := fun _ => rfl

/-- Settles O17: each of the four bounds fails the range check, which stands before every write. -/
theorem badConfigurationIsRejected : Obligations.BadConfigurationIsRejected := by
  intro strips len debug tail s hbad
  rw [exec_reconfigure_of_not_inRange (configInRange_eq_false_iff.mpr hbad), raiseOutcome_configRejected]

end Sys2Proof.Machine
end

section
/-! The reset state (70_reset_and_hazards.md, R240): its frame buffer, and the two invariants of 10_state.md it starts
with (R19, R20). -/

namespace Sys2Proof.Machine

/-- R240: no cell of FB is listed at reset, so every slot reads IDLE, within NSLOTS and beyond it. -/
@[simp] theorem fbRead_resetFor (p : Params) (q : Nat) : fbRead (State.resetFor p).mem.fb q = Colour.idle := rfl

/-- R19 at reset is the part of the build's validity that speaks of the default pair. -/
theorem configInv_resetFor {p : Params} (hp : p.Valid) : ConfigInv (State.resetFor p) := by
  obtain ⟨-, -, -, hstrips, hlen, -⟩ := hp
  exact ⟨hstrips, hlen⟩

/-- R20 at reset needs no valid build: the whole buffer is IDLE, the unaddressed slots with it. -/
theorem idleInv_resetFor (p : Params) : IdleInv (State.resetFor p) := fun q _ _ => fbRead_resetFor p q

/-- Settles O46: each cell is as `State.resetFor` lists it; the default pair of a valid build is in range and the frame
buffer is IDLE throughout, so both invariants hold. -/
theorem resetStateIsAsSpecified : Obligations.ResetStateIsAsSpecified :=
  ⟨fun p => ⟨rfl, rfl, rfl, rfl, fbRead_resetFor p, rfl, rfl, rfl, rfl, rfl, rfl, rfl, rfl, rfl, rfl, rfl,
    fun hp => ⟨configInv_resetFor hp, idleInv_resetFor p⟩⟩, rfl, rfl⟩

end Sys2Proof.Machine
end

section
/-! The round trip of a command (30_encoding.md): the decoder of each payload inverts its encoder on the well-formed
operands, and the opcode byte selects the command. -/

namespace Sys2Proof.Machine

/-! ### The payloads (R72, R73, R76, R77, R79) -/

theorem decodePixel_encodePixel {ops : PixelOperands} (h : ops.wellFormed = true) :
    decodePixel (encodePixel ops) = ops := by
  cases ops with
  | short payload =>
    have hshort : payload.length < 5 := of_decide_eq_true h
    exact decodePixel_short (payload := payload) (by omega)
  | full index colour tail => simp only [encodePixel, decodePixel, u16be_hiByte_loByte]

theorem decodeBrightness_encodeBrightness (ops : BrightnessOperands) :
    decodeBrightness (encodeBrightness ops) = ops := by
  cases ops <;> rfl

theorem decodeRange_encodeRange {ops : RangeOperands} (h : ops.wellFormed = true) :
    decodeRange (encodeRange ops) = ops := by
  cases ops with
  | short payload =>
    have hshort : payload.length < 3 := of_decide_eq_true h
    exact decodeRange_short (payload := payload) (by omega)
  | starved start count data =>
    have hstarved : data.length < 3 * count.toNat := of_decide_eq_true h
    rw [encodeRange, decodeRange_starved _ _ hstarved, u16be_hiByte_loByte]
  | full start colours tail =>
    have hcount : colours.length ≤ 255 := of_decide_eq_true h
    have hbyte : colours.length = (BitVec.ofNat 8 colours.length).toNat := by
      rw [BitVec.toNat_ofNat, Nat.mod_eq_of_lt (by omega)]
    rw [encodeRange, decodeRange_full _ _ _ hbyte, u16be_hiByte_loByte]

theorem decodeReconfigure_encodeReconfigure {ops : ReconfigureOperands} (h : ops.wellFormed = true) :
    decodeReconfigure (encodeReconfigure ops) = ops := by
  cases ops with
  | short payload =>
    have hshort : payload.length < 3 := of_decide_eq_true h
    exact decodeReconfigure_short (payload := payload) (by omega)
  | full strips len debug tail =>
    cases debug with
    | none =>
      obtain rfl : tail = [] := List.isEmpty_iff.mp h
      simp only [encodeReconfigure, decodeReconfigure, u16be_hiByte_loByte]
    | some flag => simp only [encodeReconfigure, decodeReconfigure, u16be_hiByte_loByte]

/-! ### The frames -/

/-- A well-formed command is what its own frame decodes to. -/
theorem decode_encode {i : Instr} (h : i.wellFormed = true) : decode (encode i) = .instr i := by
  cases i with
  | setPixel ops =>
    calc decode (encode (.setPixel ops))
        = .instr (.setPixel (decodePixel (encodePixel ops))) := decode_opSetPixel _
      _ = .instr (.setPixel ops) := by rw [decodePixel_encodePixel h]
  | setBrightness ops =>
    calc decode (encode (.setBrightness ops))
        = .instr (.setBrightness (decodeBrightness (encodeBrightness ops))) := decode_opSetBrightness _
      _ = .instr (.setBrightness ops) := by rw [decodeBrightness_encodeBrightness]
  | render tail => exact decode_opRender tail
  | clear tail => exact decode_opClear tail
  | setRange ops =>
    calc decode (encode (.setRange ops))
        = .instr (.setRange (decodeRange (encodeRange ops))) := decode_opSetRange _
      _ = .instr (.setRange ops) := by rw [decodeRange_encodeRange h]
  | setAll colours tail =>
    have htail : tail.length < 3 := of_decide_eq_true h
    calc decode (encode (.setAll colours tail))
        = .instr (.setAll (allColours (colourBytes colours ++ tail)).1 (allColours (colourBytes colours ++ tail)).2) :=
          decode_opSetAll _
      _ = .instr (.setAll colours tail) := by rw [allColours_colourBytes colours htail]
  | reconfigure ops =>
    calc decode (encode (.reconfigure ops))
        = .instr (.reconfigure (decodeReconfigure (encodeReconfigure ops))) := decode_opReconfigure _
      _ = .instr (.reconfigure ops) := by rw [decodeReconfigure_encodeReconfigure h]
  | keepalive tail => exact decode_opKeepalive tail

/-- Settles O1: each command's opcode by its equation for `decode`, each payload by the inverse of its encoder. -/
theorem decodeOfEncodeIsTheInstruction : Obligations.DecodeOfEncodeIsTheInstruction := fun _ => decode_encode

/-- Settles O2: the other round trip, and the well-formedness of what `decode` answers. -/
theorem encodeOfDecodeIsTheFrame : Obligations.EncodeOfDecodeIsTheFrame := fun _ _ => encode_of_decode

/-- Settles O5: the eight frames run through `decode`. -/
theorem writtenOutFramesDecode : Obligations.WrittenOutFramesDecode := by
  unfold Obligations.WrittenOutFramesDecode
  decide

end Sys2Proof.Machine
end

section
/-! A step, event by event (40_frame_synchronizer.md sections 3 and 4, 60_exceptions.md section 6,
70_reset_and_hazards.md): what the engine runs when it takes a frame, what the block refuses, and a command sent on the
wire. -/

namespace Sys2Proof.Machine

/-! ### The engine takes a frame, or waits (R108, R110) -/

theorem consume_of_not_ready {s : State} (h : s.rxrdy = false) : consume s = .next s := by
  simp [consume, h]

theorem consume_of_ready {s : State} {f : List Byte} (hrdy : s.rxrdy = true) (hf : readyFrame s = .ok f) :
    consume s = onNext (runFrame f s) clearReady := by
  simp [consume, hrdy, hf]

theorem onXfer_ok {buf : List Byte} {len : Nat} {s : State} (hpos : 1 ≤ len) (hmax : len ≤ s.params.rxMax)
    (hbuf : len ≤ buf.length) :
    onXfer buf len .ok s =
      runFrame (buf.take len) { s with txnCount := bumpCounter s.params.cntW s.txnCount } := by
  have hshape : ¬(s.params.rxMax < len ∨ buf.length < len) := by omega
  have hsome : len ≠ 0 := by omega
  simp [onXfer, hshape, hsome]

section Steps
variable {s : State} {rest : List Event}

theorem step_consume (hm : s.params.syncMode = .edge) (hs : s.schedule = .consume :: rest) :
    step s = consume { s with schedule := rest } := by
  rw [step_of_schedule hs]
  simp [runEvent, hm]

theorem step_of_schedule_nil (hs : s.schedule = []) :
    step s = if s.params.syncMode = .edge then consume s else .next s := by
  simp [step, takeStep, hs]

/-- CONSUME, asked for by the schedule or taken because nothing is left in it (log 3). -/
theorem step_engine (hm : s.params.syncMode = .edge)
    (hs : s.schedule = .consume :: rest ∨ (s.schedule = [] ∧ rest = [])) :
    step s = consume { s with schedule := rest } := by
  obtain hs | ⟨hs, rfl⟩ := hs
  · exact step_consume hm hs
  · rw [step_of_schedule_nil hs, if_pos hm, ← hs]

theorem step_report (hs : s.schedule = .report :: rest) :
    step s = .next (emit (.snapshot (snapshotOf s)) { s with schedule := rest }) :=
  step_of_schedule hs

theorem step_powerCycle (hs : s.schedule = .powerCycle :: rest) :
    step s = .next (powerOn { s with schedule := rest }) :=
  step_of_schedule hs

end Steps

/-! ### The pre-check reads only the build, ZPAY_COUNT and the log -/

theorem precheck_congr {s u : State} (hparams : u.params = s.params) (hzpay : u.zpayCount = s.zpayCount)
    (htrace : u.trace = s.trace) (f : List Byte) :
    precheck f u = { u with zpayCount := (precheck f s).zpayCount, trace := (precheck f s).trace } := by
  by_cases h : zeroPayload s.params.zpExempt f = true
  · rw [precheck_of_zeroPayload h, precheck_of_zeroPayload (hparams ▸ h)]
    simp only [emit, hparams, hzpay, htrace]
  · rw [precheck_of_not_zeroPayload h, precheck_of_not_zeroPayload (hparams ▸ h), ← hzpay, ← htrace]

theorem precheck_appends (f : List Byte) (s : State) : ∃ marks, (precheck f s).trace = s.trace ++ marks := by
  obtain ⟨-, he⟩ | ⟨-, he⟩ := precheck_cases f s <;> rw [he]
  · exact ⟨[], (List.append_nil _).symm⟩
  · exact ⟨_, rfl⟩

/-- What a frame with an unrecognized opcode leaves: the pre-check's effects and the one log event (R135, R204). -/
theorem runFrame_unrecognized {f : List Byte} {op : Byte} {s u : State} {marks : List Output}
    (hd : decode f = .unrecognized op) (hparams : u.params = s.params) (hzpay : u.zpayCount = s.zpayCount)
    (htrace : u.trace = s.trace) (hmarks : (precheck f s).trace = s.trace ++ marks) :
    runFrame f u = .next { u with
      zpayCount := (precheck f s).zpayCount
      trace := s.trace ++ marks ++ [.log (.unknownOpcode op f.length)] } := by
  rw [runFrame_of_decode_unrecognized hd, precheck_congr hparams hzpay htrace, hmarks]
  rfl

/-! ### What the block refuses (R6, R214) -/

theorem onXfer_refused {buf : List Byte} {len : Nat} {status : ExchangeStatus} {s : State}
    (hm : s.params.syncMode = .queued) (h : admissible s.params (.xfer buf len status) = false) :
    ∃ r, onXfer buf len status s = .refused r := by
  cases status with
  | timeout => simp [admissible, hm] at h
  | other code => exact ⟨_, rfl⟩
  | ok =>
    have hshape : s.params.rxMax < len ∨ buf.length < len := by
      simp only [admissible, hm, decide_true, Bool.true_and, Bool.and_eq_false_iff, decide_eq_false_iff_not] at h
      omega
    exact ⟨_, if_pos hshape⟩

/-- An event that is none of the build's interface is refused. -/
theorem runEvent_refused {e : Event} {s : State} (h : admissible s.params e = false) :
    ∃ r, runEvent e s = .refused r := by
  cases e with
  | selAssert | byte _ | selDeassert | consume =>
    cases hm : s.params.syncMode with
    | edge => simp [admissible, hm] at h
    | queued => simp [runEvent, hm]
  | xfer buf len status =>
    cases hm : s.params.syncMode with
    | edge => simp [runEvent, hm]
    | queued => simpa [runEvent, hm] using onXfer_refused hm h
  | report | powerCycle => simp [admissible] at h

/-! ### The single steps -/

/-- Settles O14: the dispatch goes by `decode` alone. -/
theorem frameRunsTheCommandItDecodesTo : Obligations.FrameRunsTheCommandItDecodesTo :=
  fun _ _ s h => runFrame_of_decode_instr h s

/-- Settles O42: each step is the engine's CONSUME or the exchange of a frame, and the frame is dispatched by what it
decodes to; the pre-check of an unrecognized one does not see what else the step has changed. -/
theorem stepRunsTheDecodedCommand : Obligations.StepRunsTheDecodedCommand := by
  refine ⟨?consumed, ?exchanged, ?consumedUnrecognized, ?exchangedUnrecognized⟩
  case consumed =>
    intro s f i rest hm hrdy hf hd hs
    rw [step_engine hm hs, consume_of_ready (s := { s with schedule := rest }) hrdy hf, runFrame_of_decode_instr hd]
  case exchanged =>
    intro s buf len i rest hm hs hpos hmax hbuf hd
    rw [step_xfer hm hs, onXfer_ok (s := { s with schedule := rest }) hpos hmax hbuf, runFrame_of_decode_instr hd]
    rfl
  case consumedUnrecognized =>
    intro s f op rest hm hrdy hf hd hs
    obtain ⟨marks, hmarks⟩ := precheck_appends f s
    have hrun := runFrame_unrecognized (s := s) (u := { s with schedule := rest }) hd rfl rfl rfl hmarks
    refine ⟨_, marks, ?_, hmarks, rfl⟩
    rw [step_engine hm hs, consume_of_ready (s := { s with schedule := rest }) hrdy hf, hrun]
    rfl
  case exchangedUnrecognized =>
    intro s buf len op rest hm hs hpos hmax hbuf hd
    obtain ⟨marks, hmarks⟩ := precheck_appends (buf.take len) s
    have hrun := runFrame_unrecognized (s := s)
      (u := { s with schedule := rest, txnCount := bumpCounter s.params.cntW s.txnCount }) hd rfl rfl rfl hmarks
    rw [List.length_take_of_le hbuf] at hrun
    refine ⟨_, marks, ?_, hmarks, rfl⟩
    rw [step_xfer hm hs, onXfer_ok (s := { s with schedule := rest }) hpos hmax hbuf]
    exact hrun

/-- Settles O44: CONSUME with RXRDY clear is the step in both cases of an EDGE build; a QUEUED build has no engine to
wait for. -/
theorem engineWaitsForAReadyFrame : Obligations.EngineWaitsForAReadyFrame := by
  intro s rest hrdy
  refine ⟨fun hm hs => ?asked, fun hs => ?empty⟩
  case asked => rw [step_consume hm hs, consume_of_not_ready (s := { s with schedule := rest }) hrdy]
  case empty => rw [step_of_schedule_nil hs, consume_of_not_ready hrdy, ite_self]

/-- Settles O56: the snapshot is an output event and nothing else. -/
theorem snapshotReadChangesNoCell : Obligations.SnapshotReadChangesNoCell := fun _ _ hs => step_report hs

/-- Settles O57: the power cycle starts from the reset state of the build. -/
theorem powerCycleKeepsNothing : Obligations.PowerCycleKeepsNothing := fun _ _ hs => step_powerCycle hs

/-- Settles O58: the step is the event, which is refused. -/
theorem inputsWithoutMeaningAreRefused : Obligations.InputsWithoutMeaningAreRefused := by
  intro s e rest hs h
  rw [step_of_schedule hs]
  exact runEvent_refused h

/-- Settles O39: the transaction of no byte arms and disarms. -/
theorem zeroLengthTransactionIsNoOp : Obligations.ZeroLengthTransactionIsNoOp := by
  intro s rest hm hrdy hs
  have hrun : runSteps 2 s = .next (onSelDeassert (onSelAssert { s with schedule := rest })) :=
    runSteps_transaction (bytes := []) hm hs
  rw [hrun, onSelAssert_of_not_ready (s := { s with schedule := rest }) hrdy, onSelDeassert_of_empty rfl]

/-! ### A command sent on the wire (R101 to R104, R108, R109) -/

/-- A run of one step is that step. -/
theorem runSteps_one (s : State) : runSteps 1 s = step s := by
  rw [runSteps_succ]
  cases step s <;> rfl

/-- The bytes stored from address 0 on read back one by one. -/
theorem cellAt_rxWriteAll_zero {bytes : List Byte} {rxMax : Nat} (h : bytes.length ≤ rxMax) (rx : List Host.Cell)
    {k : Nat} (hk : k < bytes.length) : cellAt (rxWriteAll rx 0 bytes) k = some bytes[k] := by
  have hread := rxRead_rxWriteAll (k := 0) ((Nat.zero_add _).trans_le h) rx
  obtain ⟨-, -, hcells⟩ := rxRead_ok hread
  simpa using hcells k hk

/-- The state a transaction of `bytes` leaves that the open gate lets in and the buffer holds whole (R104), with `rest`
to come. -/
def published (s : State) (bytes : List Byte) (rest : List Event) : State :=
  { putRx (rxWriteAll s.mem.rx 0 bytes) s with
    schedule := rest
    wp := bytes.length
    armed := false
    rxcnt := bytes.length
    rxrdy := true
    txnCount := bumpCounter s.params.cntW s.txnCount }

theorem runSteps_transaction_published {bytes : List Byte} {rest : List Event} {s : State}
    (hm : s.params.syncMode = .edge) (hrdy : s.rxrdy = false) (hne : bytes ≠ [])
    (hfits : bytes.length ≤ s.params.rxMax)
    (hs : s.schedule = .selAssert :: (bytes.map .byte ++ .selDeassert :: rest)) :
    runSteps (bytes.length + 2) s = .next (published s bytes rest) := by
  have hmax : 1 ≤ s.params.rxMax := (List.length_pos_iff.mpr hne).trans_le hfits
  have hleft := transaction_of_not_ready (s := { s with schedule := rest }) hrdy hmax hne
  rw [List.take_of_length_le hfits, Nat.min_eq_left hfits] at hleft
  exact (runSteps_transaction hm hs).trans (congrArg _ hleft)

theorem readyFrame_published {s : State} {bytes : List Byte} (hfits : bytes.length ≤ s.params.rxMax)
    (rest : List Event) : readyFrame (published s bytes rest) = .ok bytes :=
  rxRead_rxWriteAll ((Nat.zero_add _).trans_le hfits) s.mem.rx

/-- Settles O45: the transaction publishes the command's frame whole, CONSUME reads it back, and it decodes to the
command (`decode_encode`). -/
theorem wireTransactionExecutesItsCommand : Obligations.WireTransactionExecutesItsCommand := by
  intro s i rest hm hrdy hwf hfits hs
  have hne : encode i ≠ [] := List.cons_ne_nil _ _
  have hsent := runSteps_transaction_published hm hrdy hne hfits hs
  have hconsume : step (published s (encode i) (.consume :: rest)) = consume (published s (encode i) rest) :=
    step_consume hm rfl
  refine ⟨published s (encode i) rest, rfl, fun _ hk => cellAt_rxWriteAll_zero hfits s.mem.rx hk, ?_⟩
  calc runSteps ((encode i).length + 3) s
      = runSteps 1 (published s (encode i) (.consume :: rest)) := runSteps_add _ 1 hsent
    _ = step (published s (encode i) (.consume :: rest)) := runSteps_one _
    _ = onNext (runFrame (encode i) (published s (encode i) rest)) clearReady :=
        hconsume.trans (consume_of_ready rfl (readyFrame_published hfits rest))
    _ = onNext (exec i (precheck (encode i) (published s (encode i) rest))) clearReady := by
        rw [runFrame_of_decode_instr (decode_encode hwf)]

end Sys2Proof.Machine
end

section
/-! What a command that completes has done (41_command_decoder.md, 60_exceptions.md): the outcome of the first failed
check and nothing else (R210, R211), or the one effect of its kind; and from that which command writes which cell. -/

namespace Sys2Proof.Machine

/-! ### The rejected commands (R210) -/

/-- A command the ordered checks do not pass ends in the outcome of the first failed check. -/
theorem exec_of_outcomeOf_ne_ok {i : Instr} {s : State} (h : outcomeOf i s ≠ .ok) :
    exec i s = .next (raiseOutcome (outcomeOf i s) s) := by
  cases i with
  | setPixel ops =>
    cases ops with
    | short payload => exact exec_setPixel_short payload s
    | full index colour tail =>
      have hle : total s ≤ index.toNat := Nat.not_lt.mp fun hlt => h (if_pos hlt)
      rw [exec_setPixel_of_total_le hle, outcomeOf, if_neg (Nat.not_lt.mpr hle)]
      rfl
  | setBrightness ops =>
    cases ops with
    | short => exact exec_setBrightness_short s
    | full v tail => exact absurd rfl h
  | render tail => exact absurd rfl h
  | clear tail => exact absurd rfl h
  | setRange ops =>
    cases ops with
    | short payload => exact exec_setRange_short payload s
    | starved start count data => exact exec_setRange_starved start count data s
    | full start colours tail =>
      have hle : total s ≤ start.toNat := Nat.not_lt.mp fun hlt => h (if_pos hlt)
      rw [exec_setRange_of_total_le hle, outcomeOf, if_neg (Nat.not_lt.mpr hle)]
      rfl
  | setAll colours tail =>
    have hlt := Nat.not_le.mp fun hle => h (outcomeOf_setAll_eq_ok_iff.mpr hle)
    rw [exec_setAll_of_lt hlt, outcomeOf_setAll_of_lt hlt]
  | reconfigure ops =>
    cases ops with
    | short payload => exact exec_reconfigure_short payload s
    | full strips len debug tail =>
      have hbad : configInRange s.params strips len = false :=
        Bool.eq_false_iff.mpr fun hgood => h (outcomeOf_reconfigure_full_eq_ok_iff.mpr hgood)
      have hrejected : outcomeOf (.reconfigure (.full strips len debug tail)) s = .configRejected strips len :=
        if_neg fun hrange => h (if_pos hrange)
      rw [exec_reconfigure_of_not_inRange hbad, hrejected]
  | keepalive tail => exact absurd rfl h

/-- Settles O18: command by command, the failed check is the guard of the command's own rejecting case. -/
theorem commandsEndInTheOutcomeTheChecksGive : Obligations.CommandsEndInTheOutcomeTheChecksGive :=
  fun _ _ => exec_of_outcomeOf_ne_ok

/-- Settles O19: what an outcome raises is `raiseOutcome_eq` and no RENDER event. -/
theorem rejectedCommandsMutateNothing : Obligations.RejectedCommandsMutateNothing := by
  intro i s h
  obtain ⟨evs, htrace, hevs, -⟩ := rendersNothing_raiseOutcome (outcomeOf i s) s
  exact ⟨_, evs, exec_of_outcomeOf_ne_ok h, htrace, hevs, raiseOutcome_eq _ s⟩

/-! ### The effect of a command -/

/-- `t` is what the command leaves of `s`: the outcome of its failed check, or what its kind does. -/
inductive CommandEffect (s : State) : Instr → State → Prop
  | rejected (i : Instr) (h : outcomeOf i s ≠ .ok) : CommandEffect s i (raiseOutcome (outcomeOf i s) s)
  | setPixel (index : Half) (colour : Colour) (tail : List Byte) :
    CommandEffect s (.setPixel (.full index colour tail))
      (putFb (fbWriteAll s.mem.fb [(slot s index.toNat, colour)]) s)
  | setBrightness (v : Byte) (tail : List Byte) :
    CommandEffect s (.setBrightness (.full v tail)) { s with bright := v }
  | render (tail : List Byte) : CommandEffect s (.render tail) (doRender s)
  | clear (tail : List Byte) :
    CommandEffect s (.clear tail) (doRender (putFb (fbWriteAll s.mem.fb (clearWrites s)) s))
  | setRange (start : Half) (colours : List Colour) (tail : List Byte) :
    CommandEffect s (.setRange (.full start colours tail))
      (putFb (fbWriteAll s.mem.fb (rangeWrites s start.toNat colours)) s)
  | setAll (colours : List Colour) (tail : List Byte) (h : outcomeOf (.setAll colours tail) s = .ok) :
    CommandEffect s (.setAll colours tail) (doRender (setAllWritten colours s))
  | reconfigure (strips : Byte) (len : Half) (debug : Option Byte) (tail : List Byte)
    (h : configInRange s.params strips len = true) :
    CommandEffect s (.reconfigure (.full strips len debug tail)) (doRender (reconfigured strips len debug s))
  | keepalive (tail : List Byte) : CommandEffect s (.keepalive tail) { s with status := !s.status }

/-- An accepted command that completes has the effect of its kind. -/
theorem exec_effect_of_ok {i : Instr} {s t : State} (hok : outcomeOf i s = .ok) (h : exec i s = .next t) :
    CommandEffect s i t := by
  cases i with
  | setPixel ops =>
    change execSetPixel ops s = .next t at h
    obtain ⟨_, rfl, -⟩ | ⟨index, _, _, rfl, hle, -⟩ | ⟨index, colour, tail, rfl, -, he⟩ :=
      execSetPixel_cases ops s
    · cases hok
    · exact absurd hok (by rw [outcomeOf, if_neg (Nat.not_lt.mpr hle)]; nofun)
    · obtain ⟨-, rfl⟩ := storePixels_next (he.symm.trans h)
      exact .setPixel index colour tail
  | setBrightness ops =>
    cases ops with
    | short => cases hok
    | full v tail =>
      cases h
      exact .setBrightness v tail
  | render tail =>
    cases h
    exact .render tail
  | clear tail =>
    obtain ⟨u, hu, rfl⟩ := onNext_eq_next.mp h
    obtain ⟨-, rfl⟩ := storePixels_next hu
    exact .clear tail
  | setRange ops =>
    change execSetRange ops s = .next t at h
    obtain ⟨_, _, -, ⟨_, rfl, -⟩ | ⟨_, _, _, rfl, -⟩⟩ | ⟨start, _, _, rfl, hle, -⟩ |
      ⟨start, colours, tail, rfl, -, he⟩ := execSetRange_cases ops s
    · cases hok
    · cases hok
    · exact absurd hok (by rw [outcomeOf, if_neg (Nat.not_lt.mpr hle)]; nofun)
    · obtain ⟨-, rfl⟩ := storePixels_next (he.symm.trans h)
      exact .setRange start colours tail
  | setAll colours tail =>
    change execSetAll colours tail s = .next t at h
    obtain ⟨hlt, -⟩ | ⟨-, he⟩ := execSetAll_cases colours tail s
    · exact absurd (outcomeOf_setAll_eq_ok_iff.mp hok) (Nat.not_le.mpr hlt)
    · obtain ⟨u, hu, rfl⟩ := onNext_eq_next.mp (he.symm.trans h)
      obtain ⟨-, rfl⟩ := storePixels_next hu
      exact .setAll colours tail hok
  | reconfigure ops =>
    cases ops with
    | short payload => cases hok
    | full strips len debug tail =>
      have hrange := outcomeOf_reconfigure_full_eq_ok_iff.mp hok
      cases (exec_reconfigure_of_inRange hrange debug tail).symm.trans h
      exact .reconfigure strips len debug tail hrange
  | keepalive tail =>
    cases h
    exact .keepalive tail

theorem exec_effect {i : Instr} {s t : State} (h : exec i s = .next t) : CommandEffect s i t := by
  by_cases hok : outcomeOf i s = .ok
  · exact exec_effect_of_ok hok h
  · cases (exec_of_outcomeOf_ne_ok hok).symm.trans h
    exact .rejected i hok

/-! ### The writers of each cell (10_state.md, R52) -/

theorem raiseOutcome_moves_malformedCount {o : FrameOutcome} {s : State}
    (h : (raiseOutcome o s).malformedCount ≠ s.malformedCount) :
    (∃ op n expected, o = .malformed op n expected) ∨ ∃ strips len, o = .configRejected strips len := by
  cases o with
  | malformed op n expected => exact .inl ⟨op, n, expected, rfl⟩
  | configRejected strips len => exact .inr ⟨strips, len, rfl⟩
  | empty | ok | outOfRange | unknownOpcode _ _ => exact absurd rfl h

section Writers
variable {s t : State} {i : Instr}

theorem CommandEffect.bright_writer (h : CommandEffect s i t) (hne : t.bright ≠ s.bright) :
    ∃ v tail, i = .setBrightness (.full v tail) := by
  cases h with
  | rejected => exact absurd (raiseOutcome_bright _ s) hne
  | setBrightness v tail => exact ⟨v, tail, rfl⟩
  | _ => exact absurd rfl hne

theorem CommandEffect.status_writer (h : CommandEffect s i t) (hne : t.status ≠ s.status) :
    ∃ tail, i = .keepalive tail := by
  cases h with
  | rejected => exact absurd (raiseOutcome_status _ s) hne
  | keepalive tail => exact ⟨tail, rfl⟩
  | _ => exact absurd rfl hne

theorem CommandEffect.fb_writer (h : CommandEffect s i t) (hne : t.mem.fb ≠ s.mem.fb) :
    (∃ ops, i = .setPixel ops) ∨ (∃ ops, i = .setRange ops) ∨ (∃ cs tail, i = .setAll cs tail) ∨
      (∃ tail, i = .clear tail) ∨ (∃ ops, i = .reconfigure ops) := by
  cases h with
  | rejected => exact absurd (congrArg Memory.fb (raiseOutcome_mem _ s)) hne
  | setPixel => exact .inl ⟨_, rfl⟩
  | setRange => exact .inr (.inl ⟨_, rfl⟩)
  | setAll => exact .inr (.inr (.inl ⟨_, _, rfl⟩))
  | clear => exact .inr (.inr (.inr (.inl ⟨_, rfl⟩)))
  | reconfigure => exact .inr (.inr (.inr (.inr ⟨_, rfl⟩)))
  | setBrightness | render | keepalive => exact absurd rfl hne

theorem CommandEffect.lastRenderDur_writer (h : CommandEffect s i t) (hne : t.lastRenderDur ≠ s.lastRenderDur) :
    renderClass i = true ∧ outcomeOf i s = .ok := by
  cases h with
  | rejected => exact absurd (raiseOutcome_lastRenderDur _ s) hne
  | render | clear => exact ⟨rfl, rfl⟩
  | setAll _ _ hok => exact ⟨rfl, hok⟩
  | reconfigure _ _ _ _ hrange => exact ⟨rfl, outcomeOf_reconfigure_full_eq_ok_iff.mpr hrange⟩
  | setPixel | setRange | setBrightness | keepalive => exact absurd rfl hne

theorem CommandEffect.malformedCount_writer (h : CommandEffect s i t) (hne : t.malformedCount ≠ s.malformedCount) :
    (∃ op n expected, outcomeOf i s = .malformed op n expected) ∨
      ∃ strips len, outcomeOf i s = .configRejected strips len := by
  cases h with
  | rejected => exact raiseOutcome_moves_malformedCount hne
  | _ => exact absurd rfl hne

theorem CommandEffect.zpayCount (h : CommandEffect s i t) : t.zpayCount = s.zpayCount := by
  cases h with
  | rejected => exact raiseOutcome_zpayCount _ s
  | _ => rfl

theorem exec_frameCount_writer (h : exec i s = .next t) (hne : t.frameCount ≠ s.frameCount) :
    renderClass i = true ∧ outcomeOf i s = .ok := by
  obtain ⟨hclass, hok, -⟩ | ⟨-, _, -, -, hcount⟩ := exec_rendersOnce_or_nothing h
  · exact ⟨hclass, hok⟩
  · exact absurd hcount hne

theorem exec_config_writer (h : exec i s = .next t)
    (hne : t.cfgStrips ≠ s.cfgStrips ∨ t.cfgLen ≠ s.cfgLen ∨ t.debug ≠ s.debug) :
    ∃ strips len debug tail, i = .reconfigure (.full strips len debug tail) := by
  obtain ⟨hstrips, hlen, hdebug⟩ | ⟨strips, len, debug, tail, hi, -⟩ := exec_sameConfig_or_reconfigured h
  · simp [hstrips, hlen, hdebug] at hne
  · exact ⟨strips, len, debug, tail, hi⟩

end Writers

/-- Settles O33: each cell by the lemma on its writers, the handoff and the rest by `exec_keepsFrontEnd`. -/
theorem eachCellHasItsOwnWriters : Obligations.EachCellHasItsOwnWriters := by
  intro i s t h
  have heffect := exec_effect h
  obtain ⟨hparams, hrx, hwp, harmed, hrxcnt, hrxrdy, htxn, hschedule⟩ := exec_keepsFrontEnd i s t h
  exact ⟨exec_config_writer h, heffect.bright_writer, heffect.status_writer, heffect.fb_writer,
    heffect.lastRenderDur_writer, exec_frameCount_writer h, heffect.malformedCount_writer,
    hrx, hwp, harmed, hrxcnt, hrxrdy, htxn, heffect.zpayCount, hparams, hschedule⟩

/-! ### SET_RANGE, then RENDER (43_framebuffer_commands.md section 6) -/

/-- A range that fits is written whole. -/
theorem rangeWrites_of_fits {s : State} {start : Nat} {colours : List Colour}
    (hfit : start + colours.length ≤ total s) : rangeWrites s start colours = rowWrites s start colours := by
  rw [rangeWrites, List.take_of_length_le]
  rw [clampedCount]
  omega

/-- Settles O28: the render shows the buffer SET_RANGE leaves; its row ends within TOTAL, so the slots in it hold the
payload and, `slot` being injective, those of the other pixels are not written. -/
theorem setRangeThenRenderShowsThePayload : Obligations.SetRangeThenRenderShowsThePayload := by
  intro s start colours tail tail' hc hstart hfit
  have hset := exec_setRange_of_lt_total hc hstart colours tail
  rw [rangeWrites_of_fits hfit] at hset
  have hshown : ∀ i, (fbPixels (putFb (fbWriteAll s.mem.fb (rowWrites s start.toNat colours)) s))[slot s i]? =
      some (fbRead (fbWriteAll s.mem.fb (rowWrites s start.toNat colours)) (slot s i)) :=
    fun i => fbPixels_getElem? _ (slot_lt_nslots hc i)
  refine ⟨_, _, _, hset, exec_render tail' _, rfl, fbPixels_length _, fun k hk => ?payload, fun i hi hout => ?kept⟩
  case payload => rw [hshown, fbRead_rowWrites_slot hc hfit hk]
  case kept =>
    rw [hshown, fbRead_rowWrites_of_ne fun k hk he => ?_]
    have := slot_injective_below_total hc (by omega) hi he
    omega

end Sys2Proof.Machine
end

section
/-! What a frame and a step that complete have done (40_frame_synchronizer.md, 41_command_decoder.md section 1): one
inversion for the decoding of a frame and one for the step, from which what every step keeps is derived. -/

namespace Sys2Proof.Machine

/-! ### One frame (R130, R132, R135) -/

theorem runFrame_of_decode_empty {f : List Byte} (h : decode f = .empty) (s : State) : runFrame f s = .next s := by
  simp only [runFrame, h, raiseOutcome]

/-- `t` is what decoding the frame `f` leaves of `s`. -/
inductive FrameEffect (f : List Byte) (s : State) : State → Prop
  | empty (hd : decode f = .empty) : FrameEffect f s s
  | unrecognized (op : Byte) (hd : decode f = .unrecognized op) :
    FrameEffect f s (raiseOutcome (.unknownOpcode op f.length) (precheck f s))
  | command {t : State} (i : Instr) (hd : decode f = .instr i) (hexec : exec i (precheck f s) = .next t) :
    FrameEffect f s t

theorem runFrame_effect {f : List Byte} {s t : State} (h : runFrame f s = .next t) : FrameEffect f s t := by
  cases hd : decode f with
  | empty =>
    cases (runFrame_of_decode_empty hd s).symm.trans h
    exact .empty hd
  | unrecognized op =>
    cases (runFrame_of_decode_unrecognized hd s).symm.trans h
    exact .unrecognized op hd
  | instr i => exact .command i hd ((runFrame_of_decode_instr hd s).symm.trans h)

/-! ### One step (R216) -/

/-- `s` with the event that is next used up. -/
def passed (s : State) : State := { s with schedule := s.schedule.tail }

theorem passed_of_schedule {s : State} {e : Event} {rest : List Event} (h : s.schedule = e :: rest) :
    passed s = { s with schedule := rest } := by
  rw [passed, h, List.tail_cons]

theorem passed_of_schedule_nil {s : State} (h : s.schedule = []) : passed s = s := by
  rw [passed, h, List.tail_nil, ← h]

/-- `t` is what one step leaves of `s`: the engine or the exchange had nothing to do, or the capture context took its
event, or a frame was decoded, or the event was the reporter's or the power cycle. -/
inductive StepEffect (s : State) : State → Prop
  | passes : StepEffect s (passed s)
  | selAssert (hm : s.params.syncMode = .edge) : StepEffect s (onSelAssert (passed s))
  | byte (b : Byte) (hm : s.params.syncMode = .edge) : StepEffect s (onByte b (passed s))
  | selDeassert (hm : s.params.syncMode = .edge) : StepEffect s (onSelDeassert (passed s))
  | consumes {f : List Byte} {u : State} (hrdy : s.rxrdy = true) (hf : readyFrame s = .ok f)
    (hframe : FrameEffect f (passed s) u) : StepEffect s (clearReady u)
  | receives {buf : List Byte} {len : Nat} {t : State} (hs : s.schedule.head? = some (.xfer buf len .ok))
    (hframe : FrameEffect (buf.take len) { passed s with txnCount := bumpCounter s.params.cntW s.txnCount } t) :
    StepEffect s t
  | reports : StepEffect s (emit (.snapshot (snapshotOf s)) (passed s))
  | powerCycle (hs : s.schedule.head? = some .powerCycle) : StepEffect s (powerOn (passed s))

theorem stepEffect_of_consume {s t : State} (h : consume (passed s) = .next t) : StepEffect s t := by
  rcases consume_cases (passed s) with ⟨-, he⟩ | ⟨-, _, -, he⟩ | ⟨hrdy, f, hf, he⟩ <;> rw [he] at h
  · cases h
    exact .passes
  · cases h
  · obtain ⟨u, hu, rfl⟩ := onNext_eq_next.mp h
    exact .consumes hrdy hf (runFrame_effect hu)

theorem stepEffect_of_runEvent {e : Event} {s t : State} (hs : s.schedule.head? = some e)
    (h : runEvent e (passed s) = .next t) : StepEffect s t := by
  rcases runEvent_next h with ⟨-, hm, rfl⟩ | ⟨b, -, hm, rfl⟩ | ⟨-, hm, rfl⟩ | ⟨-, -, ht⟩ |
    ⟨buf, len, status, rfl, -, ht⟩ | ⟨-, rfl⟩ | ⟨rfl, rfl⟩
  · exact .selAssert hm
  · exact .byte b hm
  · exact .selDeassert hm
  · exact stepEffect_of_consume ht
  · rcases onXfer_next ht with ⟨-, rfl⟩ | ⟨-, -, rfl⟩ | ⟨rfl, -, -, -, hrun⟩
    · exact .passes
    · exact .passes
    · exact .receives hs (runFrame_effect hrun)
  · exact .reports
  · exact .powerCycle hs

theorem step_effect {s t : State} (h : step s = .next t) : StepEffect s t := by
  obtain ⟨e, rest, hs, he⟩ | ⟨hs, -, he⟩ | ⟨hs, -, he⟩ := step_cases s <;> rw [he] at h
  · exact stepEffect_of_runEvent (by rw [hs, List.head?_cons]) (passed_of_schedule hs ▸ h)
  · exact stepEffect_of_consume ((passed_of_schedule_nil hs).symm ▸ h)
  · cases h
    have hpasses : StepEffect s (passed s) := .passes
    rwa [passed_of_schedule_nil hs] at hpasses

/-! ### The build and the events to come -/

/-- Decoding a frame writes no cell of the capture context, the build and the schedule included (R52). -/
theorem FrameEffect.sameFrontEnd {f : List Byte} {s t : State} (h : FrameEffect f s t) : SameFrontEnd s t := by
  cases h with
  | empty => exact .refl s
  | unrecognized op => exact (SameFrontEnd.precheck f s).trans (.raiseOutcome _ _)
  | command i _ hexec => exact (SameFrontEnd.precheck f s).trans (exec_keepsFrontEnd i _ t hexec)

/-- A step that completes keeps the build and uses up the event it takes. -/
theorem step_params_schedule {s t : State} (h : step s = .next t) :
    t.params = s.params ∧ t.schedule = s.schedule.tail := by
  cases step_effect h with
  | passes | reports | powerCycle => exact ⟨rfl, rfl⟩
  | selAssert => exact ⟨onSelAssert_params _, onSelAssert_schedule _⟩
  | byte b => exact ⟨onByte_params b _, onByte_schedule b _⟩
  | selDeassert => exact ⟨onSelDeassert_params _, onSelDeassert_schedule _⟩
  | consumes _ _ hframe => exact ⟨hframe.sameFrontEnd.params, hframe.sameFrontEnd.schedule⟩
  | receives _ hframe => exact ⟨hframe.sameFrontEnd.params, hframe.sameFrontEnd.schedule⟩

end Sys2Proof.Machine
end

section
/-! Completion (10_state.md sections 2 and 6, R106, R152, R258): under a valid configuration every command and every
frame completes, and with a consistent handoff so does every event of the build's interface. -/

namespace Sys2Proof.Machine

section Completion
variable {s : State}

theorem exec_completes (hc : ConfigInv s) (i : Instr) : ∃ t, exec i s = .next t := by
  cases i with
  | setPixel ops =>
    cases ops with
    | short payload => exact ⟨_, exec_setPixel_short payload s⟩
    | full index colour tail =>
      obtain hlt | hle := Nat.lt_or_ge index.toNat (total s)
      · exact ⟨_, exec_setPixel_of_lt_total hc hlt colour tail⟩
      · exact ⟨_, exec_setPixel_of_total_le hle colour tail⟩
  | setBrightness ops =>
    cases ops with
    | short => exact ⟨_, exec_setBrightness_short s⟩
    | full v tail => exact ⟨_, exec_setBrightness_full v tail s⟩
  | render tail => exact ⟨_, exec_render tail s⟩
  | clear tail => exact ⟨_, exec_clear hc tail⟩
  | setRange ops =>
    cases ops with
    | short payload => exact ⟨_, exec_setRange_short payload s⟩
    | starved start count data => exact ⟨_, exec_setRange_starved start count data s⟩
    | full start colours tail =>
      obtain hlt | hle := Nat.lt_or_ge start.toNat (total s)
      · exact ⟨_, exec_setRange_of_lt_total hc hlt colours tail⟩
      · exact ⟨_, exec_setRange_of_total_le hle colours tail⟩
  | setAll colours tail =>
    obtain hlt | hle := Nat.lt_or_ge (encode (.setAll colours tail)).length (1 + 3 * total s)
    · exact ⟨_, exec_setAll_of_lt hlt⟩
    · exact ⟨_, exec_setAll_of_le hc hle⟩
  | reconfigure ops =>
    cases ops with
    | short payload => exact ⟨_, exec_reconfigure_short payload s⟩
    | full strips len debug tail =>
      cases hrange : configInRange s.params strips len with
      | false => exact ⟨_, exec_reconfigure_of_not_inRange hrange debug tail⟩
      | true => exact ⟨_, exec_reconfigure_of_inRange hrange debug tail⟩
  | keepalive tail => exact ⟨_, exec_keepalive tail s⟩

theorem configInv_precheck (hc : ConfigInv s) (f : List Byte) : ConfigInv (precheck f s) := by
  simpa only [ConfigInv, precheck_params, precheck_cfgStrips, precheck_cfgLen] using hc

theorem runFrame_completes (hc : ConfigInv s) (f : List Byte) : ∃ t, runFrame f s = .next t := by
  cases hd : decode f with
  | empty => exact ⟨s, runFrame_of_decode_empty hd s⟩
  | unrecognized op => exact ⟨_, runFrame_of_decode_unrecognized hd s⟩
  | instr i =>
    rw [runFrame_of_decode_instr hd]
    exact exec_completes (configInv_precheck hc f) i

/-- Every byte of a published frame has been written (R10, R14). -/
theorem readyFrame_of_handoffInv (hh : HandoffInv s) (hrdy : s.rxrdy = true) : ∃ f, readyFrame s = .ok f := by
  obtain ⟨-, hrxcnt, -, -, -, hwritten, -⟩ := hh
  obtain ⟨f, hf, -⟩ := rxRead_of_written (rxMax := s.params.rxMax) (rx := s.mem.rx) (k := 0) (n := s.rxcnt)
    fun j hj => ⟨by omega, (Nat.zero_add j).symm ▸ hwritten hrdy j hj⟩
  exact ⟨f, hf⟩

theorem consume_completes (hc : ConfigInv s) (hh : HandoffInv s) : ∃ t, consume s = .next t := by
  cases hrdy : s.rxrdy with
  | false => exact ⟨s, consume_of_not_ready hrdy⟩
  | true =>
    obtain ⟨f, hf⟩ := readyFrame_of_handoffInv hh hrdy
    obtain ⟨t, ht⟩ := runFrame_completes hc f
    exact ⟨clearReady t, by rw [consume_of_ready hrdy hf, ht, onNext_next]⟩

theorem onXfer_completes {buf : List Byte} {len : Nat} {status : ExchangeStatus} (hc : ConfigInv s)
    (h : admissible s.params (.xfer buf len status) = true) : ∃ t, onXfer buf len status s = .next t := by
  cases status with
  | timeout => exact ⟨s, onXfer_timeout buf len s⟩
  | other code => simp [admissible] at h
  | ok =>
    obtain ⟨hmax, hbuf⟩ : len ≤ s.params.rxMax ∧ len ≤ buf.length := by
      simp only [admissible, Bool.and_eq_true, decide_eq_true_eq] at h
      exact h.2
    obtain rfl | hpos := Nat.eq_zero_or_pos len
    · exact ⟨s, onXfer_ok_zero buf s⟩
    · rw [onXfer_ok hpos hmax hbuf]
      exact runFrame_completes (s := { s with txnCount := bumpCounter s.params.cntW s.txnCount }) hc _

/-- Every event of the build's interface completes. -/
theorem runEvent_completes {e : Event} (hc : ConfigInv s) (hh : HandoffInv s) (h : admissible s.params e = true) :
    ∃ t, runEvent e s = .next t := by
  cases e with
  | selAssert | byte _ | selDeassert =>
    have hm : s.params.syncMode = .edge := of_decide_eq_true h
    simp [runEvent, hm]
  | consume =>
    have hm : s.params.syncMode = .edge := of_decide_eq_true h
    simpa [runEvent, hm] using consume_completes hc hh
  | xfer buf len status =>
    have hm : s.params.syncMode = .queued := of_decide_eq_true (Bool.and_eq_true_iff.mp h).1
    simpa [runEvent, hm] using onXfer_completes hc h
  | report | powerCycle => exact ⟨_, rfl⟩

/-- A step from a state of a valid configuration and a consistent handoff completes, or its event is none of the build's
interface and is refused. -/
theorem step_completes_or_refused (hc : ConfigInv s) (hh : HandoffInv s) :
    (∃ t, step s = .next t) ∨ ∃ e r, s.schedule.head? = some e ∧ admissible s.params e = false ∧
      step s = .refused r := by
  obtain ⟨e, rest, hs, he⟩ | ⟨-, -, he⟩ | ⟨-, -, he⟩ := step_cases s <;> rw [he]
  · cases hadm : admissible s.params e with
    | true => exact .inl (runEvent_completes (s := { s with schedule := rest }) hc hh hadm)
    | false =>
      obtain ⟨r, hr⟩ := runEvent_refused (s := { s with schedule := rest }) hadm
      exact .inr ⟨e, r, by rw [hs, List.head?_cons], hadm, hr⟩
  · exact .inl (consume_completes hc hh)
  · exact .inl ⟨s, rfl⟩

end Completion

/-- Settles O49: such a step completes or is refused. -/
theorem goodStatesNeverFault : Obligations.GoodStatesNeverFault := by
  intro s r hinv h
  obtain ⟨t, ht⟩ | ⟨_, _, -, -, ht⟩ := step_completes_or_refused hinv.config hinv.handoff
  · cases ht.symm.trans h
  · cases ht.symm.trans h

/-- Settles O50: nothing in such a schedule is refused. -/
theorem admissibleEventsAlwaysComplete : Obligations.AdmissibleEventsAlwaysComplete := by
  intro s hinv hadm
  obtain ⟨t, ht⟩ | ⟨e, _, he, hbad, -⟩ := step_completes_or_refused hinv.config hinv.handoff
  · exact ⟨t, ht, (step_params_schedule ht).2⟩
  · exact absurd (hadm e (List.mem_of_mem_head? he)) (Bool.eq_false_iff.mp hbad)

end Sys2Proof.Machine
end

section
/-! The invariant (10_state.md sections 2 and 3, R10, R14, R19, R20, R29): it holds at reset, each operation of the
block keeps it, so every step does, and a run from reset never stops. -/

namespace Sys2Proof.Machine

/-! ### The operations of the engine -/

section Operations
variable {s : State}

/-- What the schedule holds is no part of the invariant. -/
theorem inv_withSchedule (h : Inv s) (es : List Event) : Inv { s with schedule := es } :=
  ⟨h.params, h.mem, h.config, h.idle, h.handoff, h.counters⟩

theorem inv_emit (h : Inv s) (o : Output) : Inv (emit o s) :=
  ⟨h.params, h.mem, h.config, h.idle, h.handoff, h.counters⟩

theorem inv_countTransaction (h : Inv s) :
    Inv { s with txnCount := bumpCounter s.params.cntW s.txnCount } := by
  obtain ⟨-, hframe, hmalformed, hzpay, hdur⟩ := h.counters
  exact ⟨h.params, h.mem, h.config, h.idle, h.handoff, bumpCounter_lt _ _, hframe, hmalformed, hzpay, hdur⟩

theorem inv_raiseOutcome (h : Inv s) (o : FrameOutcome) : Inv (raiseOutcome o s) := by
  obtain ⟨htxn, hframe, -, hzpay, hdur⟩ := h.counters
  cases o with
  | malformed | configRejected =>
    exact ⟨h.params, h.mem, h.config, h.idle, h.handoff, htxn, hframe, bumpCounter_lt _ _, hzpay, hdur⟩
  | unknownOpcode op n => exact inv_emit h _
  | empty | ok | outOfRange => exact h

theorem inv_precheck (h : Inv s) (f : List Byte) : Inv (precheck f s) := by
  obtain ⟨htxn, hframe, hmalformed, -, hdur⟩ := h.counters
  obtain ⟨-, he⟩ | ⟨-, he⟩ := precheck_cases f s <;> rw [he]
  · exact h
  · exact ⟨h.params, h.mem, h.config, h.idle, h.handoff, htxn, hframe, hmalformed, bumpCounter_lt _ _, hdur⟩

theorem inv_doRender (h : Inv s) : Inv (doRender s) := by
  obtain ⟨htxn, -, hmalformed, hzpay, -⟩ := h.counters
  exact ⟨h.params, h.mem, h.config, h.idle, h.handoff, htxn, bumpCounter_lt _ _, hmalformed, hzpay,
    doRender_lastRenderDur_lt s⟩

/-- Pixel writes to addressable slots leave the unaddressed ones IDLE (R20). -/
theorem inv_putFb (h : Inv s) {ws : List (Nat × Colour)} (hws : ∀ w ∈ ws, addressableNow s w.1 = true) :
    Inv (putFb (fbWriteAll s.mem.fb ws) s) where
  params := h.params
  mem := putFb_wf (fun w hw => lt_nslots_of_addressableNow h.config (hws w hw)) h.mem
  config := h.config
  idle := by
    intro p hp hunaddressed
    have hkept : ∀ w ∈ ws, w.1 ≠ p := by
      rintro w hw rfl
      exact Bool.eq_false_iff.mp hunaddressed (hws w hw)
    exact (fbRead_fbWriteAll_of_not_mem hkept _).trans (h.idle p hp hunaddressed)
  handoff := h.handoff
  counters := h.counters

theorem rowWrites_addressable (hc : ConfigInv s) (start : Nat) (colours : List Colour) :
    ∀ w ∈ rowWrites s start colours, addressableNow s w.1 = true := by
  intro w hw
  obtain ⟨k, -, rfl⟩ := mem_rowWrites.mp hw
  exact addressableNow_slot hc (start + k)

theorem clearWrites_addressable (hc : ConfigInv s) : ∀ w ∈ clearWrites s, addressableNow s w.1 = true := by
  intro w hw
  obtain ⟨i, -, rfl⟩ := mem_clearWrites.mp hw
  exact addressableNow_slot hc i

/-- Blanking under the pair in force establishes the idle invariant, whatever stood in the buffer (R168). -/
theorem idleInv_blankUnaddressed (s : State) : IdleInv (blankUnaddressed s.cfgStrips.toNat s.cfgLen.toNat s) :=
  fun p hp hunaddressed => (fbRead_blankUnaddressed _ _ s p).trans (if_pos ⟨hp, hunaddressed⟩)

theorem inv_setAllWritten (h : Inv s) (colours : List Colour) : Inv (setAllWritten colours s) where
  params := h.params
  mem := blankUnaddressed_wf _ _ (inv_putFb h (rowWrites_addressable h.config 0 _)).mem
  config := h.config
  idle := idleInv_blankUnaddressed (putFb (fbWriteAll s.mem.fb (allWrites s colours)) s)
  handoff := h.handoff
  counters := h.counters

theorem inv_reconfigured (h : Inv s) {strips : Byte} {len : Half} (hrange : configInRange s.params strips len = true)
    (debug : Option Byte) : Inv (reconfigured strips len debug s) where
  params := h.params
  mem := blankUnaddressed_wf _ _ h.mem
  config := configInRange_iff.mp hrange
  idle := idleInv_blankUnaddressed { putConfig strips len s with debug := debugAfter s.debug debug }
  handoff := h.handoff
  counters := h.counters

/-- Every command keeps the invariant. -/
theorem CommandEffect.inv {i : Instr} {t : State} (heffect : CommandEffect s i t) (h : Inv s) : Inv t := by
  cases heffect with
  | rejected => exact inv_raiseOutcome h _
  | setPixel index => exact inv_putFb h (List.forall_mem_singleton.mpr (addressableNow_slot h.config index.toNat))
  | setRange => exact inv_putFb h (rowWrites_addressable h.config _ _)
  | render => exact inv_doRender h
  | clear => exact inv_doRender (inv_putFb h (clearWrites_addressable h.config))
  | setAll => exact inv_doRender (inv_setAllWritten h _)
  | reconfigure _ _ _ _ hrange => exact inv_doRender (inv_reconfigured h hrange _)
  | setBrightness | keepalive => exact ⟨h.params, h.mem, h.config, h.idle, h.handoff, h.counters⟩

theorem FrameEffect.inv {f : List Byte} {t : State} (heffect : FrameEffect f s t) (h : Inv s) : Inv t := by
  cases heffect with
  | empty => exact h
  | unrecognized op => exact inv_raiseOutcome (inv_precheck h f) _
  | command i _ hexec => exact (exec_effect hexec).inv (inv_precheck h f)

theorem inv_clearReady (h : Inv s) : Inv (clearReady s) := by
  obtain ⟨hwp, hrxcnt, -, -, hcaptured, -, hqueued⟩ := h.handoff
  have hhandoff : HandoffInv (clearReady s) := by
    refine ⟨hwp, hrxcnt, nofun, nofun, hcaptured, nofun, fun hm => ?_⟩
    obtain ⟨hwp, harmed, hrxcnt, -⟩ := hqueued hm
    exact ⟨hwp, harmed, hrxcnt, rfl⟩
  exact ⟨h.params, h.mem, h.config, h.idle, hhandoff, h.counters⟩

/-! ### The capture context (R101 to R105) -/

theorem inv_onSelAssert (hm : s.params.syncMode ≠ .queued) (h : Inv s) : Inv (onSelAssert s) := by
  obtain ⟨hwp, hrxcnt, -, hpos, -, hwritten, -⟩ := h.handoff
  by_cases hrdy : s.rxrdy = true
  · rw [onSelAssert_of_ready hrdy]
    exact ⟨h.params, h.mem, h.config, h.idle,
      ⟨hwp, hrxcnt, fun _ => rfl, hpos, nofun, hwritten, (absurd · hm)⟩, h.counters⟩
  · rw [onSelAssert_of_not_ready (Bool.eq_false_iff.mpr hrdy)]
    exact ⟨h.params, h.mem, h.config, h.idle,
      ⟨Nat.zero_le _, hrxcnt, (absurd · hrdy), hpos, fun _ k hk => absurd hk k.not_lt_zero, hwritten,
        (absurd · hm)⟩, h.counters⟩

/-- The byte just stored extends the written part of the capture by one. -/
theorem inv_onByte (hm : s.params.syncMode ≠ .queued) (h : Inv s) (b : Byte) : Inv (onByte b s) := by
  obtain ⟨-, hrxcnt, hdisarmed, hpos, hcaptured, -, -⟩ := h.handoff
  by_cases hstored : s.armed = true ∧ s.wp < s.params.rxMax
  · obtain ⟨harmed, hlt⟩ := hstored
    have hrdy : s.rxrdy ≠ true := fun hrdy => by simp [hdisarmed hrdy] at harmed
    have hwritten : ∀ k < s.wp + 1, (cellAt (putCell s.mem.rx s.wp b) k).isSome = true := by
      intro k hk
      obtain hlast | hbefore : k = s.wp ∨ k < s.wp := by omega
      · rw [hlast, cellAt_putCell_self, Option.isSome_some]
      · rw [cellAt_putCell_ne _ _ (by omega)]
        exact hcaptured harmed k hbefore
    have hmem := onByte_wf b h.mem
    rw [onByte_of_armed_of_lt b harmed hlt] at hmem ⊢
    exact ⟨h.params, hmem, h.config, h.idle,
      ⟨hlt, hrxcnt, (absurd · hrdy), hpos, fun _ => hwritten, (absurd · hrdy), (absurd · hm)⟩, h.counters⟩
  · have hsame : onByte b s = s := if_neg hstored
    rw [hsame]
    exact h

theorem inv_onSelDeassert (hm : s.params.syncMode ≠ .queued) (h : Inv s) : Inv (onSelDeassert s) := by
  obtain ⟨hwp, hrxcnt, -, hpos, hcaptured, hwritten, -⟩ := h.handoff
  obtain ⟨-, hframe, hmalformed, hzpay, hdur⟩ := h.counters
  cases harmed : s.armed with
  | false =>
    rw [onSelDeassert_of_not_armed harmed]
    exact h
  | true =>
    obtain hempty | hsome := Nat.eq_zero_or_pos s.wp
    · rw [onSelDeassert_of_empty hempty]
      exact ⟨h.params, h.mem, h.config, h.idle,
        ⟨hwp, hrxcnt, fun _ => rfl, hpos, nofun, hwritten, (absurd · hm)⟩, h.counters⟩
    · rw [onSelDeassert_of_armed_of_pos harmed hsome]
      exact ⟨h.params, h.mem, h.config, h.idle,
        ⟨hwp, hwp, fun _ => rfl, fun _ => hsome, nofun, fun _ => hcaptured harmed, (absurd · hm)⟩,
        bumpCounter_lt _ _, hframe, hmalformed, hzpay, hdur⟩

end Operations

/-! ### Reset (R240, R242) -/

theorem counterInv_resetFor (p : Params) : CounterInv (State.resetFor p) :=
  have hzero (w : Nat) : 0 < 2 ^ w := Nat.two_pow_pos w
  ⟨hzero _, hzero _, hzero _, hzero _, hzero _⟩

theorem handoffInv_resetFor (p : Params) : HandoffInv (State.resetFor p) :=
  ⟨Nat.zero_le _, Nat.zero_le _, nofun, nofun, nofun, nofun, fun _ => ⟨rfl, rfl, rfl, rfl⟩⟩

theorem inv_resetFor {p : Params} (hp : p.Valid) : Inv (State.resetFor p) :=
  ⟨hp, resetFor_wf p, configInv_resetFor hp, idleInv_resetFor p, handoffInv_resetFor p, counterInv_resetFor p⟩

theorem valid_reference : Params.reference.Valid := by decide

theorem inv_powerOn {s : State} (h : Inv s) : Inv (powerOn s) :=
  have hreset := inv_resetFor h.params
  ⟨hreset.params, hreset.mem, hreset.config, hreset.idle, hreset.handoff, hreset.counters⟩

/-- Settles O47: the cells of the reset state, in any build whose parameters are in range, P_EX among them. -/
theorem invariantHoldsAtReset : Obligations.InvariantHoldsAtReset :=
  ⟨rfl, inv_resetFor valid_reference, fun _ => inv_resetFor⟩

/-! ### Every step -/

theorem step_inv {s t : State} (h : Inv s) (hstep : step s = .next t) : Inv t := by
  have hpassed : Inv (passed s) := inv_withSchedule h _
  cases step_effect hstep with
  | passes => exact hpassed
  | selAssert hm => exact inv_onSelAssert (hm ▸ nofun) hpassed
  | byte b hm => exact inv_onByte (hm ▸ nofun) hpassed b
  | selDeassert hm => exact inv_onSelDeassert (hm ▸ nofun) hpassed
  | consumes _ _ hframe => exact inv_clearReady (hframe.inv hpassed)
  | receives _ hframe => exact hframe.inv (inv_countTransaction hpassed)
  | reports => exact inv_emit hpassed _
  | powerCycle => exact inv_powerOn hpassed

/-- Settles O48: every event is made of operations that keep the invariant. -/
theorem everyStepKeepsTheInvariant : Obligations.EveryStepKeepsTheInvariant :=
  fun _ _ h hstep => ⟨step_inv h hstep, (step_params_schedule hstep).1⟩

/-! ### Runs -/

/-- Such a state takes a step, and the next state is such a state again. -/
theorem step_of_inv_of_admissible {s : State} (h : Inv s) (hadm : ∀ e ∈ s.schedule, admissible s.params e = true) :
    ∃ t, step s = .next t ∧ Inv t ∧ t.params = s.params ∧ t.schedule = s.schedule.tail := by
  obtain ⟨t, ht, htail⟩ := admissibleEventsAlwaysComplete s h hadm
  exact ⟨t, ht, step_inv h ht, (step_params_schedule ht).1, htail⟩

theorem runSteps_of_inv_of_admissible {k : Nat} {s : State} (h : Inv s)
    (hadm : ∀ e ∈ s.schedule, admissible s.params e = true) :
    ∃ t, runSteps k s = .next t ∧ Inv t ∧ t.params = s.params ∧ t.schedule = s.schedule.drop k := by
  induction k generalizing s with
  | zero => exact ⟨s, rfl, h, rfl, rfl⟩
  | succ k ih =>
    obtain ⟨u, hu, hinv, hparams, htail⟩ := step_of_inv_of_admissible h hadm
    have hadm' : ∀ e ∈ u.schedule, admissible u.params e = true := by
      rw [hparams, htail]
      exact fun e he => hadm e (List.mem_of_mem_tail he)
    obtain ⟨t, ht, hinv', hparams', hdrop⟩ := ih hinv hadm'
    refine ⟨t, (runSteps_of_next hu).trans ht, hinv', hparams'.trans hparams, ?_⟩
    rw [hdrop, htail, List.drop_tail]

/-- Settles O51: the reset state meets the invariant, and the steps follow by induction on their number. -/
theorem everyRunFromResetGoesOn : Obligations.EveryRunFromResetGoesOn :=
  fun _ es _ hp hadm => runSteps_of_inv_of_admissible (inv_withSchedule (inv_resetFor hp) es) hadm

end Sys2Proof.Machine
end

section
/-! What a step shows and counts (10_state.md section 5, 43_framebuffer_commands.md section 8): at most one RENDER
event, of the buffer and brightness it leaves, with FRAME_COUNT moving alongside; and at most one in each other
counter. -/

namespace Sys2Proof.Machine

/-! ### The renders of one step (R160, R170) -/

/-- From `s` to `t` the outputs grew by events other than RENDER and then at most one RENDER event, of the buffer and
brightness `t` has, and FRAME_COUNT moved with it. -/
def RendersAtMostOnce (s t : State) : Prop :=
  RendersNothing s t ∨ ∃ u, u.params = s.params ∧ RendersNothing s u ∧ RendersOnce u t

section Renders
variable {s t : State}

theorem FrameEffect.rendersAtMostOnce {f : List Byte} (h : FrameEffect f s t) : RendersAtMostOnce s t := by
  cases h with
  | empty => exact .inl (rendersNothing_of_same rfl rfl)
  | unrecognized op => exact .inl ((rendersNothing_precheck f s).trans (rendersNothing_raiseOutcome _ _))
  | command i _ hexec =>
    obtain ⟨-, -, honce⟩ | ⟨-, hnothing⟩ := exec_rendersOnce_or_nothing hexec
    · exact .inr ⟨_, precheck_params f s, rendersNothing_precheck f s, honce⟩
    · exact .inl ((rendersNothing_precheck f s).trans hnothing)

/-- Only the power cycle moves FRAME_COUNT without a RENDER event. -/
theorem step_rendersAtMostOnce (hne : s.schedule.head? ≠ some .powerCycle) (h : step s = .next t) :
    RendersAtMostOnce s t := by
  cases step_effect h with
  | passes => exact .inl (rendersNothing_of_same rfl rfl)
  | selAssert => exact .inl (rendersNothing_of_same (onSelAssert_trace _) (onSelAssert_frameCount _))
  | byte b => exact .inl (rendersNothing_of_same (onByte_trace b _) (onByte_frameCount b _))
  | selDeassert => exact .inl (rendersNothing_of_same (onSelDeassert_trace _) (onSelDeassert_frameCount _))
  | consumes _ _ hframe =>
    have hrenders := hframe.rendersAtMostOnce
    exact hrenders
  | receives _ hframe =>
    have hrenders := hframe.rendersAtMostOnce
    exact hrenders
  | reports => exact .inl ⟨[.snapshot (snapshotOf s)], rfl, by simp [isRender], rfl⟩
  | powerCycle hs => exact absurd hs hne

end Renders

/-! ### FRAME_COUNT and the RENDER events (R25, R170) -/

/-- FRAME_COUNT is the number of RENDER events emitted, modulo `2^CNT_W`. -/
def FrameCountEquation (s : State) : Prop := s.frameCount = s.trace.countP isRender % 2 ^ s.params.cntW

section Equation
variable {s t : State}

theorem RendersNothing.frameCountEquation (h : RendersNothing s t) (hparams : t.params = s.params)
    (hs : FrameCountEquation s) : FrameCountEquation t := by
  obtain ⟨evs, htrace, hevs, hcount⟩ := h
  have hnone : evs.countP isRender = 0 := List.countP_eq_zero.mpr fun o ho => Bool.eq_false_iff.mp (hevs o ho)
  rw [FrameCountEquation, hcount, htrace, hparams, List.countP_append, hnone, Nat.add_zero, hs]

theorem RendersOnce.frameCountEquation (h : RendersOnce s t) (hparams : t.params = s.params)
    (hs : FrameCountEquation s) : FrameCountEquation t := by
  obtain ⟨htrace, hcount⟩ := h
  rw [FrameCountEquation, hcount, htrace, hparams, List.countP_append, hs, Nat.mod_add_mod]
  rfl

theorem RendersAtMostOnce.frameCountEquation (h : RendersAtMostOnce s t) (hparams : t.params = s.params)
    (hs : FrameCountEquation s) : FrameCountEquation t := by
  obtain hnothing | ⟨u, hu, hnothing, honce⟩ := h
  · exact hnothing.frameCountEquation hparams hs
  · exact honce.frameCountEquation (hparams.trans hu.symm) (hnothing.frameCountEquation hu hs)

theorem step_frameCountEquation (hne : s.schedule.head? ≠ some .powerCycle) (hs : FrameCountEquation s)
    (h : step s = .next t) : FrameCountEquation t :=
  (step_rendersAtMostOnce hne h).frameCountEquation (step_params_schedule h).1 hs

end Equation

/-- Settles O59: a step renders nothing, or once and counts it. -/
theorem everyStepKeepsTheFrameCountEquation : Obligations.EveryStepKeepsTheFrameCountEquation :=
  fun _ _ hne hs h => ⟨(step_params_schedule h).1, step_frameCountEquation hne hs h⟩

/-- What a state has and every completing step keeps, a run from it keeps. -/
theorem runSteps_keeps {P : State → Prop} (hstep : ∀ s t, P s → step s = .next t → P t) {k : Nat} {s t : State}
    (hs : P s) (h : runSteps k s = .next t) : P t := by
  induction k generalizing s with
  | zero =>
    cases h
    exact hs
  | succ k ih =>
    rw [runSteps_succ] at h
    cases hu : step s with
    | next u =>
      rw [hu] at h
      exact ih (hstep s u hs hu) h
    | fault r => simp [hu] at h
    | refused r => simp [hu] at h

/-- The build is `p`, no power cycle is to come, and the equation holds. -/
def CountsRendersIn (p : Params) (s : State) : Prop :=
  s.params = p ∧ Event.powerCycle ∉ s.schedule ∧ FrameCountEquation s

theorem step_countsRendersIn {p : Params} (s t : State) (hs : CountsRendersIn p s) (h : step s = .next t) :
    CountsRendersIn p t := by
  obtain ⟨hp, hnone, heq⟩ := hs
  obtain ⟨hparams, htail⟩ := step_params_schedule h
  have hnone' : Event.powerCycle ∉ t.schedule := htail ▸ fun hmem => hnone (List.mem_of_mem_tail hmem)
  exact ⟨hparams.trans hp, hnone', step_frameCountEquation (fun hhead => hnone (List.mem_of_mem_head? hhead)) heq h⟩

/-- Settles O29: at reset both sides are 0, and each step of the run keeps the equation. -/
theorem frameCountCountsTheRenders : Obligations.FrameCountCountsTheRenders := by
  intro p es k t hnone h
  have hreset : CountsRendersIn p { State.resetFor p with schedule := es } := ⟨rfl, hnone, (Nat.zero_mod _).symm⟩
  obtain ⟨rfl, -, heq⟩ := runSteps_keeps step_countsRendersIn hreset h
  exact heq

/-! ### The buffer a render shows (R161, R171) -/

section Shown
variable {s t : State}

/-- From `s` to `t` the outputs only grew, and every RENDER event among the new ones is of the buffer and brightness
`t` has. -/
def ShowsOnlyWhatItLeaves (s t : State) : Prop :=
  ∃ evs, t.trace = s.trace ++ evs ∧
    ∀ pix bright, Output.render pix bright ∈ evs → pix = fbPixels t ∧ bright = t.bright

theorem RendersAtMostOnce.showsOnlyWhatItLeaves (h : RendersAtMostOnce s t) : ShowsOnlyWhatItLeaves s t := by
  have not_render {evs : List Output} (hevs : ∀ o ∈ evs, isRender o = false) (pix : List Colour) (bright : Byte) :
      Output.render pix bright ∉ evs := fun hmem => absurd (hevs _ hmem) nofun
  obtain ⟨evs, htrace, hevs, -⟩ | ⟨u, -, ⟨evs, htrace, hevs, -⟩, hlast, -⟩ := h
  · exact ⟨evs, htrace, fun pix bright hmem => absurd hmem (not_render hevs pix bright)⟩
  · refine ⟨evs ++ [.render (fbPixels t) t.bright], by rw [hlast, htrace, List.append_assoc],
      fun pix bright hmem => ?_⟩
    obtain hearlier | hnow := List.mem_append.mp hmem
    · exact absurd hearlier (not_render hevs pix bright)
    · cases List.mem_singleton.mp hnow
      exact ⟨rfl, rfl⟩

theorem step_showsOnlyWhatItLeaves (h : step s = .next t) : ShowsOnlyWhatItLeaves s t := by
  by_cases hpower : s.schedule.head? = some .powerCycle
  · obtain ⟨rest, hs⟩ := List.head?_eq_some_iff.mp hpower
    cases (step_powerCycle hs).symm.trans h
    exact ⟨[], (List.append_nil _).symm, nofun⟩
  · exact (step_rendersAtMostOnce hpower h).showsOnlyWhatItLeaves

end Shown

/-- Settles O52: a RENDER event is of the buffer the step leaves, and that state meets the invariant, R20 with it. -/
theorem noRenderShowsAStaleColour : Obligations.NoRenderShowsAStaleColour := by
  intro s t h
  obtain ⟨hparams, -⟩ := step_params_schedule h
  obtain ⟨evs, htrace, hshown⟩ := step_showsOnlyWhatItLeaves h
  refine ⟨evs, htrace, fun pix bright hmem => ?_⟩
  obtain ⟨rfl, rfl⟩ := hshown pix bright hmem
  refine ⟨rfl, rfl, hparams ▸ fbPixels_length t, fun hinv p hp hunaddressed => ?_⟩
  rw [← hparams] at hp
  rw [fbPixels_getElem? t hp, (step_inv hinv h).idle p hp hunaddressed]

/-! ### The counters (R29) -/

/-- From `s` to `t` MALFORMED_COUNT and ZPAY_COUNT each moved by nothing or by one. -/
structure CountsFrameAtMostOnce (s t : State) : Prop where
  malformedCount : t.malformedCount = s.malformedCount ∨ t.malformedCount = (s.malformedCount + 1) % 2 ^ s.params.cntW
  zpayCount : t.zpayCount = s.zpayCount ∨ t.zpayCount = (s.zpayCount + 1) % 2 ^ s.params.cntW

section Counters
variable {s t : State}

theorem raiseOutcome_malformedCount_moves (o : FrameOutcome) (s : State) :
    (raiseOutcome o s).malformedCount = s.malformedCount ∨
      (raiseOutcome o s).malformedCount = (s.malformedCount + 1) % 2 ^ s.params.cntW := by
  cases o with
  | malformed | configRejected => exact .inr rfl
  | empty | ok | outOfRange | unknownOpcode => exact .inl rfl

theorem CommandEffect.malformedCount_moves {i : Instr} (h : CommandEffect s i t) :
    t.malformedCount = s.malformedCount ∨ t.malformedCount = (s.malformedCount + 1) % 2 ^ s.params.cntW := by
  cases h with
  | rejected => exact raiseOutcome_malformedCount_moves _ s
  | _ => exact .inl rfl

theorem precheck_zpayCount_moves (f : List Byte) (s : State) :
    (precheck f s).zpayCount = s.zpayCount ∨ (precheck f s).zpayCount = (s.zpayCount + 1) % 2 ^ s.params.cntW := by
  obtain ⟨-, he⟩ | ⟨-, he⟩ := precheck_cases f s <;> rw [he]
  · exact .inl rfl
  · exact .inr rfl

theorem FrameEffect.countsFrameAtMostOnce {f : List Byte} (h : FrameEffect f s t) : CountsFrameAtMostOnce s t := by
  cases h with
  | empty => exact ⟨.inl rfl, .inl rfl⟩
  | unrecognized op => exact ⟨.inl (precheck_malformedCount f s), precheck_zpayCount_moves f s⟩
  | command i _ hexec =>
    have heffect := exec_effect hexec
    have hmalformed := heffect.malformedCount_moves
    rw [precheck_malformedCount, precheck_params] at hmalformed
    exact ⟨hmalformed, heffect.zpayCount ▸ precheck_zpayCount_moves f s⟩

theorem step_countsFrameAtMostOnce (hne : s.schedule.head? ≠ some .powerCycle) (h : step s = .next t) :
    CountsFrameAtMostOnce s t := by
  cases step_effect h with
  | passes | reports => exact ⟨.inl rfl, .inl rfl⟩
  | selAssert => exact ⟨.inl (onSelAssert_malformedCount _), .inl (onSelAssert_zpayCount _)⟩
  | byte b => exact ⟨.inl (onByte_malformedCount b _), .inl (onByte_zpayCount b _)⟩
  | selDeassert => exact ⟨.inl (onSelDeassert_malformedCount _), .inl (onSelDeassert_zpayCount _)⟩
  | consumes _ _ hframe =>
    obtain ⟨hmalformed, hzpay⟩ := hframe.countsFrameAtMostOnce
    exact ⟨hmalformed, hzpay⟩
  | receives _ hframe =>
    obtain ⟨hmalformed, hzpay⟩ := hframe.countsFrameAtMostOnce
    exact ⟨hmalformed, hzpay⟩
  | powerCycle hs => exact absurd hs hne

theorem step_txnCount_moves (hne : s.schedule.head? ≠ some .powerCycle) (h : step s = .next t) :
    t.txnCount = s.txnCount ∨ t.txnCount = (s.txnCount + 1) % 2 ^ s.params.cntW := by
  rw [step_txnCount hne h]
  split
  · exact .inr rfl
  · exact .inl rfl

theorem RendersAtMostOnce.frameCount_moves (h : RendersAtMostOnce s t) :
    t.frameCount = s.frameCount ∨ t.frameCount = (s.frameCount + 1) % 2 ^ s.params.cntW := by
  obtain ⟨_, -, -, hcount⟩ | ⟨u, hu, ⟨_, -, -, hcount⟩, -, hcount'⟩ := h
  · exact .inl hcount
  · exact .inr (by rw [hcount', hcount, hu])

end Counters

/-- Settles O54: TXN_COUNT by the events that receive, FRAME_COUNT with the one render, the other two by the one frame
that is decoded. -/
theorem countersMoveByOneAndWrap : Obligations.CountersMoveByOneAndWrap := by
  intro s t hne h
  obtain ⟨hmalformed, hzpay⟩ := step_countsFrameAtMostOnce hne h
  exact ⟨step_txnCount_moves hne h, (step_rendersAtMostOnce hne h).frameCount_moves, hmalformed, hzpay⟩

end Sys2Proof.Machine
end

section
/-! The configuration over a step (44_configuration.md, R194): a step keeps the pair, or is a power cycle, or decodes an
accepted RECONFIGURE frame. -/

namespace Sys2Proof.Machine

/-- `t` has the configuration pair as `s` has it. -/
def KeepsPair (s t : State) : Prop := t.cfgStrips = s.cfgStrips ∧ t.cfgLen = s.cfgLen

/-- The frame `f` is a RECONFIGURE whose pair is in range in the build of `s`, and `t` has that pair. -/
def ReconfiguredBy (f : List Byte) (s t : State) : Prop :=
  ∃ strips len debug tail, decode f = .instr (.reconfigure (.full strips len debug tail)) ∧
    configInRange s.params strips len = true ∧ t.cfgStrips = strips ∧ t.cfgLen = len

theorem FrameEffect.keepsPair_or_reconfigured {f : List Byte} {s t : State} (h : FrameEffect f s t) :
    KeepsPair s t ∨ ReconfiguredBy f s t := by
  cases h with
  | empty => exact .inl ⟨rfl, rfl⟩
  | unrecognized op => exact .inl (by simp [KeepsPair])
  | command i hd hexec =>
    obtain ⟨hstrips, hlen, -⟩ | ⟨strips, len, debug, tail, rfl, hrange, rfl⟩ :=
      exec_sameConfig_or_reconfigured hexec
    · exact .inl ⟨hstrips.trans (precheck_cfgStrips f s), hlen.trans (precheck_cfgLen f s)⟩
    · exact .inr ⟨strips, len, debug, tail, hd, precheck_params f s ▸ hrange, rfl, rfl⟩

/-- The frame a step of `s` takes: the ready one, or that of an OK exchange. -/
def TakesFrame (s : State) (f : List Byte) : Prop :=
  (s.rxrdy = true ∧ readyFrame s = .ok f) ∨ ∃ buf n, s.schedule.head? = some (.xfer buf n .ok) ∧ f = buf.take n

theorem step_keepsPair_or_reconfigured {s t : State} (h : step s = .next t) :
    KeepsPair s t ∨ s.schedule.head? = some .powerCycle ∨ ∃ f, TakesFrame s f ∧ ReconfiguredBy f s t := by
  cases step_effect h with
  | passes | reports => exact .inl ⟨rfl, rfl⟩
  | selAssert => exact .inl ⟨onSelAssert_cfgStrips _, onSelAssert_cfgLen _⟩
  | byte b => exact .inl ⟨onByte_cfgStrips b _, onByte_cfgLen b _⟩
  | selDeassert => exact .inl ⟨onSelDeassert_cfgStrips _, onSelDeassert_cfgLen _⟩
  | consumes hrdy hf hframe =>
    obtain hkept | hreconfigured := hframe.keepsPair_or_reconfigured
    · exact .inl hkept
    · exact .inr (.inr ⟨_, .inl ⟨hrdy, hf⟩, hreconfigured⟩)
  | receives hs hframe =>
    obtain hkept | hreconfigured := hframe.keepsPair_or_reconfigured
    · exact .inl hkept
    · exact .inr (.inr ⟨_, .inr ⟨_, _, hs, rfl⟩, hreconfigured⟩)
  | powerCycle hs => exact .inr (.inl hs)

/-- Settles O32: what a step does to the pair, an accepted RECONFIGURE from any state, and the power cycle. -/
theorem configurationChangesOnlyByReconfigure : Obligations.ConfigurationChangesOnlyByReconfigure := by
  refine ⟨fun s t h hne => ?onlyBy, fun s strips len hS hSmax hL hLmax => ?anyPair, fun s t rest hs h => ?power⟩
  case onlyBy =>
    obtain ⟨hstrips, hlen⟩ | hpower | ⟨f, htakes, strips, len, debug, tail, hd, hrange, hstrips, hlen⟩ :=
      step_keepsPair_or_reconfigured h
    · simp [hstrips, hlen] at hne
    · exact .inl hpower
    · obtain ⟨⟨hS, hSmax⟩, hL, hLmax⟩ := configInRange_iff.mp hrange
      exact .inr ⟨f, strips, len, debug, tail, htakes, hd, hS, hSmax, hL, hLmax, hstrips, hlen⟩
  case anyPair =>
    have hrange : configInRange s.params strips len = true := configInRange_iff.mpr ⟨⟨hS, hSmax⟩, hL, hLmax⟩
    exact ⟨_, exec_reconfigure_of_inRange hrange none [], rfl, rfl⟩
  case power =>
    cases (step_powerCycle hs).symm.trans h
    exact ⟨rfl, rfl⟩

end Sys2Proof.Machine
end

section
/-! Noninterference of the diagnostics (10_state.md sections 4 and 5, R22, R28, R29). With the counters, the render
duration and DEBUG blanked out after it, an operation gives the same whether or not they were blanked out before it. -/

namespace Sys2Proof.Machine

/-! ### Operations that do not look at the diagnostics -/

/-- The outcome with the diagnostics of its next state blanked out. -/
def blanked (o : Host.Outcome State Fault Refusal) : Host.Outcome State Fault Refusal := onNext o withoutDiagnostics

/-- The operation `f` goes the same way, diagnostics apart, whatever the diagnostics. -/
def Blind (f : State → Host.Outcome State Fault Refusal) : Prop :=
  ∀ s, blanked (f (withoutDiagnostics s)) = blanked (f s)

/-- The same of an operation that always completes. -/
def BlindUpdate (f : State → State) : Prop :=
  ∀ s, withoutDiagnostics (f (withoutDiagnostics s)) = withoutDiagnostics (f s)

theorem Blind.congr {f : State → Host.Outcome State Fault Refusal} (hf : Blind f) {s s' : State}
    (h : withoutDiagnostics s = withoutDiagnostics s') : blanked (f s) = blanked (f s') := by
  rw [← hf s, h, hf s']

theorem BlindUpdate.congr {f : State → State} (hf : BlindUpdate f) {s s' : State}
    (h : withoutDiagnostics s = withoutDiagnostics s') : withoutDiagnostics (f s) = withoutDiagnostics (f s') := by
  rw [← hf s, h, hf s']

theorem BlindUpdate.blind {f : State → State} (hf : BlindUpdate f) : Blind fun s => .next (f s) :=
  fun s => congrArg Host.Outcome.next (hf s)

theorem Blind.comp_update {f : State → Host.Outcome State Fault Refusal} {g : State → State} (hf : Blind f)
    (hg : BlindUpdate g) : Blind fun s => f (g s) :=
  fun s => hf.congr (hg s)

theorem blanked_onNext {g : State → State} (hg : BlindUpdate g) (o : Host.Outcome State Fault Refusal) :
    blanked (onNext o g) = blanked (onNext (blanked o) g) := by
  cases o with
  | next t => exact congrArg Host.Outcome.next (hg t).symm
  | fault r => rfl
  | refused r => rfl

theorem Blind.onNext {f : State → Host.Outcome State Fault Refusal} {g : State → State} (hf : Blind f)
    (hg : BlindUpdate g) : Blind fun s => Machine.onNext (f s) g := by
  intro s
  rw [blanked_onNext hg, hf s, ← blanked_onNext hg]

/-! ### The commands -/

theorem blindUpdate_raiseOutcome (o : FrameOutcome) : BlindUpdate (raiseOutcome o) := by
  intro s
  cases o <;> rfl

theorem blindUpdate_precheck (f : List Byte) : BlindUpdate (precheck f) := by
  intro s
  by_cases h : zeroPayload s.params.zpExempt f = true
  · rw [precheck_of_zeroPayload h, precheck_of_zeroPayload (s := withoutDiagnostics s) h]
    rfl
  · rw [precheck_of_not_zeroPayload h, precheck_of_not_zeroPayload (s := withoutDiagnostics s) h]
    rfl

theorem blindUpdate_doRender : BlindUpdate doRender := fun _ => rfl

theorem Blind.ite {p : State → Prop} {f g : State → Host.Outcome State Fault Refusal} [DecidablePred p]
    (hp : ∀ s, p (withoutDiagnostics s) ↔ p s) (hf : Blind f) (hg : Blind g) :
    Blind fun s => if p s then f s else g s := by
  intro s
  simp only [hp s]
  split
  · exact hf s
  · exact hg s

theorem blind_storePixels (ws : List (Nat × Colour)) : Blind (storePixels ws) := by
  intro s
  have hparams : (withoutDiagnostics s).params = s.params := rfl
  unfold storePixels
  rw [hparams]
  split <;> rfl

/-- No command looks at the diagnostics: the pair, the buffer and the operands decide. -/
theorem blind_exec (i : Instr) : Blind (exec i) := by
  cases i with
  | setPixel ops =>
    cases ops with
    | short payload => exact (blindUpdate_raiseOutcome _).blind
    | full index colour tail =>
      exact Blind.ite (p := fun s => total s ≤ index.toNat) (fun _ => Iff.rfl)
        (blindUpdate_raiseOutcome .outOfRange).blind fun s => blind_storePixels [(slot s index.toNat, colour)] s
  | setBrightness ops =>
    cases ops with
    | short => exact (blindUpdate_raiseOutcome _).blind
    | full v tail => exact fun _ => rfl
  | render tail => exact blindUpdate_doRender.blind
  | clear tail => exact fun s => (blind_storePixels (clearWrites s)).onNext blindUpdate_doRender s
  | setRange ops =>
    cases ops with
    | short payload => exact (blindUpdate_raiseOutcome _).blind
    | starved start count data => exact (blindUpdate_raiseOutcome _).blind
    | full start colours tail =>
      exact Blind.ite (p := fun s => total s ≤ start.toNat) (fun _ => Iff.rfl)
        (blindUpdate_raiseOutcome .outOfRange).blind fun s => blind_storePixels (rangeWrites s start.toNat colours) s
  | setAll colours tail =>
    exact Blind.ite (p := fun s => setAllFrameLength colours tail < setAllLength (total s))
      (fun _ => Iff.rfl) (fun s => (blindUpdate_raiseOutcome _).blind s)
      fun s => (blind_storePixels (allWrites s colours)).onNext (fun _ => rfl) s
  | reconfigure ops =>
    cases ops with
    | short payload => exact (blindUpdate_raiseOutcome _).blind
    | full strips len debug tail =>
      exact Blind.ite (p := fun s => configInRange s.params strips len = true) (fun _ => Iff.rfl)
        (fun _ => rfl) (blindUpdate_raiseOutcome _).blind
  | keepalive tail => exact fun _ => rfl

/-! ### Frames and events -/

theorem blind_runFrame (f : List Byte) : Blind (runFrame f) := by
  cases hd : decode f with
  | empty =>
    rw [funext (runFrame_of_decode_empty hd)]
    exact fun _ => rfl
  | unrecognized op =>
    rw [funext (runFrame_of_decode_unrecognized hd)]
    exact (blindUpdate_raiseOutcome _).blind.comp_update (blindUpdate_precheck f)
  | instr i =>
    rw [funext (runFrame_of_decode_instr hd)]
    exact (blind_exec i).comp_update (blindUpdate_precheck f)

theorem consume_of_error {s : State} {r : Fault} (hrdy : s.rxrdy = true) (hf : readyFrame s = .error r) :
    consume s = .fault r := by
  simp [consume, hrdy, hf]

theorem blind_consume : Blind consume := by
  intro s
  cases hrdy : s.rxrdy with
  | false =>
    rw [consume_of_not_ready hrdy, consume_of_not_ready (s := withoutDiagnostics s) hrdy]
    rfl
  | true =>
    cases hf : readyFrame s with
    | error r => rw [consume_of_error hrdy hf, consume_of_error (s := withoutDiagnostics s) hrdy hf]
    | ok f =>
      rw [consume_of_ready hrdy hf, consume_of_ready (s := withoutDiagnostics s) hrdy hf]
      exact (blind_runFrame f).onNext (fun _ => rfl) s

theorem blind_onXfer (buf : List Byte) (len : Nat) (status : ExchangeStatus) : Blind (onXfer buf len status) := by
  cases status with
  | timeout | other => exact fun _ => rfl
  | ok =>
    exact Blind.ite (p := fun s => s.params.rxMax < len ∨ buf.length < len) (fun _ => Iff.rfl)
      (fun _ => rfl) (Blind.ite (p := fun _ => len = 0) (fun _ => Iff.rfl) (fun _ => rfl)
        ((blind_runFrame _).comp_update fun _ => rfl))

theorem blindUpdate_onSelAssert : BlindUpdate onSelAssert := by
  intro s
  cases hrdy : s.rxrdy with
  | false =>
    rw [onSelAssert_of_not_ready hrdy, onSelAssert_of_not_ready (s := withoutDiagnostics s) hrdy]
    rfl
  | true =>
    rw [onSelAssert_of_ready hrdy, onSelAssert_of_ready (s := withoutDiagnostics s) hrdy]
    rfl

theorem blindUpdate_onByte (b : Byte) : BlindUpdate (onByte b) := by
  intro s
  by_cases hstored : s.armed = true ∧ s.wp < s.params.rxMax
  · obtain ⟨harmed, hlt⟩ := hstored
    rw [onByte_of_armed_of_lt b harmed hlt, onByte_of_armed_of_lt (s := withoutDiagnostics s) b harmed hlt]
    rfl
  · have hkept : onByte b s = s := if_neg hstored
    have hkept' : onByte b (withoutDiagnostics s) = withoutDiagnostics s := if_neg hstored
    rw [hkept, hkept']
    rfl

theorem blindUpdate_onSelDeassert : BlindUpdate onSelDeassert := by
  intro s
  cases harmed : s.armed with
  | false =>
    rw [onSelDeassert_of_not_armed harmed, onSelDeassert_of_not_armed (s := withoutDiagnostics s) harmed]
    rfl
  | true =>
    obtain hempty | hpos := Nat.eq_zero_or_pos s.wp
    · rw [onSelDeassert_of_empty hempty, onSelDeassert_of_empty (s := withoutDiagnostics s) hempty]
      rfl
    · rw [onSelDeassert_of_armed_of_pos harmed hpos,
        onSelDeassert_of_armed_of_pos (s := withoutDiagnostics s) harmed hpos]
      rfl

/-! ### The obligation -/

/-- A blind operation that completes completes from every state that differs in the diagnostics only, and the next
states differ in them only. -/
theorem Blind.next {f : State → Host.Outcome State Fault Refusal} (hf : Blind f) {s s' t : State}
    (hss' : withoutDiagnostics s = withoutDiagnostics s') (h : f s = .next t) :
    ∃ t', f s' = .next t' ∧ withoutDiagnostics t = withoutDiagnostics t' := by
  have hsame : .next (withoutDiagnostics t) = blanked (f s') := by rw [← hf.congr hss', h]; rfl
  exact onNext_eq_next.mp hsame.symm

theorem runEvent_alike {e : Event} (hne : e ≠ .report) {s s' t : State}
    (hss' : withoutDiagnostics s = withoutDiagnostics s') (h : runEvent e s = .next t) :
    ∃ t', runEvent e s' = .next t' ∧ withoutDiagnostics t = withoutDiagnostics t' := by
  have hparams : s'.params = s.params := (congrArg State.params hss').symm
  rcases runEvent_next h with ⟨rfl, hm, rfl⟩ | ⟨b, rfl, hm, rfl⟩ | ⟨rfl, hm, rfl⟩ | ⟨rfl, hm, ht⟩ |
    ⟨buf, len, status, rfl, hm, ht⟩ | ⟨hreport, -⟩ | ⟨rfl, rfl⟩
  · exact ⟨onSelAssert s', by simp [runEvent, hparams, hm], blindUpdate_onSelAssert.congr hss'⟩
  · exact ⟨onByte b s', by simp [runEvent, hparams, hm], (blindUpdate_onByte b).congr hss'⟩
  · exact ⟨onSelDeassert s', by simp [runEvent, hparams, hm], blindUpdate_onSelDeassert.congr hss'⟩
  · simpa [runEvent, hparams, hm] using blind_consume.next hss' ht
  · simpa [runEvent, hparams, hm] using (blind_onXfer buf len status).next hss' ht
  · exact absurd hreport hne
  · exact ⟨powerOn s', rfl, BlindUpdate.congr (fun _ => rfl) hss'⟩

/-- Settles O53: no event but the reporter's read looks at the diagnostics, nor does the choice of the next event. -/
theorem diagnosticsNeverSteerTheBlock : Obligations.DiagnosticsNeverSteerTheBlock := by
  intro s s' t hss' hne h
  have hparams : s'.params = s.params := (congrArg State.params hss').symm
  have hschedule : s'.schedule = s.schedule := (congrArg State.schedule hss').symm
  obtain ⟨e, rest, hs, he⟩ | ⟨hs, hm, he⟩ | ⟨hs, hm, he⟩ := step_cases s <;> rw [he] at h
  · rw [step_of_schedule (hschedule.trans hs)]
    refine runEvent_alike (fun hreport => hne (by rw [hs, hreport, List.head?_cons])) ?_ h
    exact congrArg (fun u : State => { u with schedule := rest }) hss'
  · rw [step_of_schedule_nil (hschedule.trans hs), hparams, if_pos hm]
    exact blind_consume.next hss' h
  · cases h
    rw [step_of_schedule_nil (hschedule.trans hs), hparams, hm, if_neg nofun]
    exact ⟨s', rfl, hss'⟩

end Sys2Proof.Machine
end
